-- ==== Sys2Proof/Word.lean ====
section
/-! DEFINITION. The widths of the block's values (00_scope.md R6, R10, R11): everything is unsigned. -/

namespace Sys2Proof

/-- One byte of the inbound stream (R12). -/
abbrev Byte := BitVec 8

/-- One unsigned 16-bit thermal sample (`SAMPLE_BITS`, R6); also the width of a WR value. -/
abbrev Sample := BitVec 16

/-- One 24-bit pixel, red in bits 23:16, green in 15:8, blue in 7:0 (`PIX_BITS`, R10, R36). -/
abbrev Pixel := BitVec 24

/-- A 32-bit command word, RD datum or statistic counter (`CMD_BITS`, R10). -/
abbrev Word := BitVec 32

/-- A register address, field `A` of the command word (R80). -/
abbrev RegAddr := BitVec 8

end Sys2Proof
end

