-- ==== Sys2Proof/Config.lean ====
section
/-! DEFINITION. What is fixed for a run: the frame geometry (00_scope.md R6), the configuration record `Cfg`
(R8), the two command ports (10_state.md R20), and the free values, constants without a body. -/

namespace Sys2Proof

/-- `FRAME_W`: samples per row (R6). -/
abbrev frameW : Nat := 32
/-- `FRAME_H`: rows per frame (R6). -/
abbrev frameH : Nat := 32
/-- `SAMPLE_BYTES`: bytes per sample (R6). -/
abbrev sampleBytes : Nat := 2
/-- `N_SAMPLES`: samples per frame (R6). -/
abbrev nSamples : Nat := frameW * frameH
/-- `FRAME_BYTES`: bytes per RawFrame (R6). -/
abbrev frameBytes : Nat := nSamples * sampleBytes
/-- `LUT_SIZE`: entries of the colour look-up table (R10). -/
abbrev lutSize : Nat := 256
/-- The default of the parameter `CAP` (R7). -/
abbrev defaultCap : BitVec 16 := 4096

/-- The two command ports (10_state.md R20, 60_exceptions.md R201). -/
inductive Port where
  /-- The C-port, of the acquisition agent. -/
  | c
  /-- The O-port, of the presentation agent. -/
  | o
  deriving DecidableEq, Repr, Inhabited

/-- `BYTE_ORDER`: 0 little-endian, 1 big-endian (R8, 20_memory.md R65). -/
inductive ByteOrder where
  | little
  | big
  deriving DecidableEq, Repr

/-- The configuration record `Cfg` (R8). The widths are R8's; what a well-formed record is, R9, is
`Cfg.wf` in WellFormed.lean. -/
structure Cfg where
  /-- `BYTE_ORDER`. -/
  byteOrder : ByteOrder
  /-- `RANGE_EN`: the range-sanity check is enabled. -/
  rangeEn : Bool
  /-- `MARK_EN`: the marker check is enabled. -/
  markEn : Bool
  /-- `SANE_MIN`: the lowest plausible sample. -/
  saneMin : Sample
  /-- `SANE_MAX`: the highest plausible sample. -/
  saneMax : Sample
  /-- `MARK_LEN`: the marker's length in bytes. -/
  markLen : BitVec 3
  /-- `MARK_OFF`: the marker's place in the window. -/
  markOff : BitVec 11
  /-- `MARK[0..3]`: the marker's bytes, the first in the stream first; four by its type. -/
  mark : Vector Byte 4
  /-- `DEFAULT_MIN`: the reset value of `PR_MIN`. -/
  defaultMin : Sample
  /-- `DEFAULT_MAX`: the reset value of `PR_MAX`. -/
  defaultMax : Sample
  /-- `PALETTE[0..255]`: the colour scale, contents of the `LUT` (10_state.md R40); 256 entries by its type. -/
  palette : Vector Pixel lutSize
  deriving DecidableEq, Repr

/-- The configuration that `State.reset` latches. `DEFAULT_MIN` and `DEFAULT_MAX` are the spec's
defaults (R8); every other field is open in the spec (D27) and zero here, with `MARK_LEN = 1` as R9
says for a disabled marker. DESIGN CHOICE, unsafe: notes/assumptions/2.md. -/
def Cfg.default : Cfg where
  byteOrder := .little
  rangeEn := false
  markEn := false
  saneMin := 0
  saneMax := 0
  markLen := 1
  markOff := 0
  mark := Vector.replicate 4 0
  defaultMin := 0
  defaultMax := 65535
  palette := Vector.replicate lutSize 0

/-- FREE VALUE: pixel `i` of `DISP` as drawn by draw number `n`. After RESET the contents of `DISP` are
unspecified, "any 1024 24-bit values" (10_state.md R44, 93_implementation_defined.md V1); nothing can
be proved of it. notes/assumptions/3.md. -/
opaque Config.freePixel : Nat → Nat → Pixel

/-- FREE VALUE: the port whose command goes first at draw number `n`, when both ports have a command
waiting (20_memory.md R69, 60_exceptions.md R197: either may go first). notes/assumptions/5.md. -/
opaque Config.arbiter : Nat → Port

/-- The 1024 free pixels of draw `n` (V1). -/
def Config.freeFrame (n : Nat) : List Pixel :=
  (List.range nSamples).map (Config.freePixel n)

end Sys2Proof
end

