-- ==== Sys2Proof/Syntax.lean ====
section
/-! DEFINITION. The command set: one constructor per row of opcode_table.json (30_encoding.md R82). -/

namespace Sys2Proof

/-- The eight commands with their operands (R81, R82). The register address of WR and RD is the raw
field `A`: whether it is a legal address is checked after the port right (R90 steps 4 and 5), by the
meaning; a row of R82 admits every `A`. -/
inductive Instr where
  /-- `IDLE`: a tick with no data (R112). -/
  | idle
  /-- `PUSH b`: feed one byte to the synchronizer (R105). -/
  | push (b : Byte)
  /-- `FLUSH`: reset the synchronizer (R111). -/
  | flush
  /-- `RRST`: explicit reset of the PaletteRange (R151). -/
  | rrst
  /-- `WR a, v`: write a control register (R172). -/
  | wr (a : RegAddr) (v : Sample)
  /-- `RD a`: read a register (R174). -/
  | rd (a : RegAddr)
  /-- `SNAP`: take a snapshot of the latest published frame (R176). -/
  | snap
  /-- `RESET`: put every piece of state to its reset value (R171). -/
  | reset
  deriving DecidableEq, Repr

end Sys2Proof
end

