-- ==== Sys2Proof/WellFormed.lean ====
section
/-! DEFINITION. Well-formed commands (30_encoding.md R85: legal register addresses) and well-formed
configurations (00_scope.md R7, R9). -/

namespace Sys2Proof

/-- A command whose fields are legal: WR accepts only 0x00, 0x02 and 0x03, RD only 0x00 to 0x10 (R85).
Every other operand is legal at every value of its width (R81). -/
def Instr.wf (i : Instr) : Bool :=
  match i with
  | .idle => true
  | .push _ => true
  | .flush => true
  | .rrst => true
  | .wr a _ => a == 0x00 || a == 0x02 || a == 0x03
  | .rd a => decide (a ≤ 0x10)
  | .snap => true
  | .reset => true

/-- The commands the O-port may issue: IDLE, RD and SNAP only (R86, 60_exceptions.md R201). -/
def Instr.allowedOnO (i : Instr) : Bool :=
  match i with
  | .idle => true
  | .push _ => false
  | .flush => false
  | .rrst => false
  | .wr _ _ => false
  | .rd _ => true
  | .snap => true
  | .reset => false

/-- `1 <= MARK_LEN <= 4` and `MARK_OFF + MARK_LEN <= FRAME_BYTES` (R8, R9). -/
def Cfg.markerFits (c : Cfg) : Bool :=
  decide (1 ≤ c.markLen.toNat) && decide (c.markLen.toNat ≤ 4) &&
    decide (c.markOff.toNat + c.markLen.toNat ≤ frameBytes)

/-- `MARK[j]`, `0 <= j <= 3` (R8). -/
def Cfg.markByte (c : Cfg) (j : Nat) : Byte := c.mark[j]?.getD 0

/-- `MARK[j] = 0` for `j >= MARK_LEN` (R8). -/
def Cfg.markPadded (c : Cfg) : Bool :=
  (List.range 4).all (fun j => decide (j < c.markLen.toNat) || c.markByte j == 0)

/-- `Cfg` is well formed (R9): every field in its legal range, whether or not its check is enabled (the ranges
of the other fields are those of their types).
`SANE_MIN > SANE_MAX` and `DEFAULT_MIN > DEFAULT_MAX` are well formed. -/
def Cfg.wf (c : Cfg) : Bool :=
  c.markerFits && c.markPadded

/-- `FRAME_BYTES <= CAP <= 65535` (R7); the upper bound is the width of the register `CAP`. -/
def capOk (cap : BitVec 16) : Bool :=
  decide (frameBytes ≤ cap.toNat)

/-- A configuration of this hardware: a well-formed `Cfg` and a `CAP` in its range (R7, R9, V8). -/
def configOk (c : Cfg) (cap : BitVec 16) : Bool :=
  c.wf && capOk cap

end Sys2Proof
end

