-- ==== Sys2Proof/Decode.lean ====
section
/-! DEFINITION. The decoder of the 32-bit command word, total, and the encoder (30_encoding.md R80 to R92).
A command word is a value, not a byte sequence, so it has no byte order (R80). -/

namespace Sys2Proof

/-- Field `OP`, bits 31:28 (R80). -/
def Word.op (w : Word) : BitVec 4 := w.extractLsb' 28 4

/-- Field `A`, bits 23:16: the register address of WR and RD (R80, R81). -/
def Word.addr (w : Word) : RegAddr := w.extractLsb' 16 8

/-- Field `D`, bits 15:0: the value of WR (R80, R81). -/
def Word.data (w : Word) : Sample := w.extractLsb' 0 16

/-- Bits 7:0: the byte of PUSH (R80, R81). -/
def Word.byte (w : Word) : Byte := w.extractLsb' 0 8

/-- The mnemonics of R82. -/
inductive Mnemonic where
  | IDLE | PUSH | FLUSH | RRST | WR | RD | SNAP | RESET
  deriving DecidableEq, Repr

/-- One row of the opcode map of R82: `w` selects the row when `w and mask = match`. -/
structure Row where
  mnemonic : Mnemonic
  pattern : Word
  mask : Word
  deriving DecidableEq, Repr

/-- The opcode map (R82). -/
def opcodeMap : List Row :=
  [ ⟨.IDLE,  0x00000000#32, 0xFFFFFFFF#32⟩,
    ⟨.PUSH,  0x10000000#32, 0xFFFFFF00#32⟩,
    ⟨.FLUSH, 0x20000000#32, 0xFFFFFFFF#32⟩,
    ⟨.RRST,  0x30000000#32, 0xFFFFFFFF#32⟩,
    ⟨.WR,    0x40000000#32, 0xFF000000#32⟩,
    ⟨.RD,    0x50000000#32, 0xFF00FFFF#32⟩,
    ⟨.SNAP,  0x60000000#32, 0xFFFFFFFF#32⟩,
    ⟨.RESET, 0xF0000000#32, 0xFFFFFFFF#32⟩ ]

/-- The word selects the row (R82). -/
def Row.selects (r : Row) (w : Word) : Bool := (w &&& r.mask) == r.pattern

/-- The command of a selected row, its operands taken from the word's fields (R81). -/
def Mnemonic.instr (m : Mnemonic) (w : Word) : Instr :=
  match m with
  | .IDLE => .idle
  | .PUSH => .push (Word.byte w)
  | .FLUSH => .flush
  | .RRST => .rrst
  | .WR => .wr (Word.addr w) (Word.data w)
  | .RD => .rd (Word.addr w)
  | .SNAP => .snap
  | .RESET => .reset

/-- The mnemonic of a command. -/
def Instr.mnemonic (i : Instr) : Mnemonic :=
  match i with
  | .idle => .IDLE
  | .push _ => .PUSH
  | .flush => .FLUSH
  | .rrst => .RRST
  | .wr _ _ => .WR
  | .rd _ => .RD
  | .snap => .SNAP
  | .reset => .RESET

/-- Why a word selects no row (R87 (a) and (b)); both raise IllegalCommand. -/
inductive DecodeError where
  /-- `OP` in 0x7 to 0xE: reserved, never given a meaning (R87, R88). -/
  | reservedOpcode
  /-- `OP` names a command but a must-be-zero bit is set (R83). -/
  | mustBeZero
  deriving DecidableEq, Repr

/-- Step 1 and 2 of R90: the row of R82 that the word selects, as a command with its operands; a word
that selects none is illegal (R87). -/
def decode (w : Word) : Except DecodeError Instr :=
  match opcodeMap.find? (fun r => r.selects w) with
  | some r => .ok (r.mnemonic.instr w)
  | none =>
    if 0x7 ≤ Word.op w ∧ Word.op w ≤ 0xE then .error .reservedOpcode else .error .mustBeZero

/-- The word of a command (R92), the fields `{OP, Z, A, D}` of R80 from the most significant on. -/
def encode (i : Instr) : Word :=
  match i with
  | .idle => 0x00000000#32
  | .push b => 0x100000#24 ++ b
  | .flush => 0x20000000#32
  | .rrst => 0x30000000#32
  | .wr a v => 0x40#8 ++ a ++ v
  | .rd a => 0x50#8 ++ a ++ 0x0000#16
  | .snap => 0x60000000#32
  | .reset => 0xF0000000#32

/-- The command the decoder reads from a table word: its `nbits` bits, bit 0 the least significant, every
bit above them zero. -/
def decodeTableWord (nbits w : Nat) : Option Instr :=
  if nbits ≤ 32 then
    match decode (BitVec.ofNat 32 (w % 2 ^ nbits)) with
    | .ok i => some i
    | .error _ => none
  else none

end Sys2Proof
end

