-- ==== Sys2Proof/Machine/State.lean ====
section
/-! DEFINITION. The block's state (10_state.md), the events of the observation trace (R46), the responses
(30_encoding.md R91), and why a step can stop. -/

namespace Sys2Proof.Machine

open Sys2Proof

/-- `STATE`, the synchronizer state (R22). The encoding 3 is never held and has no constructor (V6). -/
inductive SyncState where
  /-- 0 `SEEKING`. -/
  | seeking
  /-- 1 `LOCKED`. -/
  | locked
  /-- 2 `RESYNCING`: entered and left inside one command (R22, R109). -/
  | resyncing
  deriving DecidableEq, Repr

/-- The events of the observation trace `OUT` (R46). -/
inductive Event where
  /-- Each publish: the validated RawFrame, its ThermalFrame, the range used, the DisplayFrame. -/
  | frame (w : List Byte) (t : List Sample) (lo hi : Sample) (p : List Pixel)
  /-- Each one-byte resync discard and each overflow drop: the byte removed. -/
  | discard (b : Byte)
  /-- Each FLUSH: the number of bytes cleared. -/
  | flushed (n : Nat)
  deriving DecidableEq, Repr

/-- The response codes (30_encoding.md R91). -/
inductive ResponseCode where
  /-- 0: the command executed. -/
  | ok
  /-- 1 (60_exceptions.md R191). -/
  | illegalCommand
  /-- 2 (60_exceptions.md R192). -/
  | lengthFault
  /-- 3 (60_exceptions.md R193). -/
  | halted
  deriving DecidableEq, Repr

/-- What a command returns on the port it came from (R91). `frame` is there only for a successful SNAP. -/
structure Response where
  port : Port
  code : ResponseCode
  data : Word
  frame : Option (List Pixel)
  deriving DecidableEq, Repr

/-- The state of the block (10_state.md R20 to R47), of its inputs, and the model's own two fields. -/
structure State where
  /-- `BUF`, oldest byte first (R21). -/
  buf : List Byte
  /-- `STATE` (R22). -/
  sync : SyncState
  /-- `POS`, ghost: the stream offset of `BUF[0]` (R23). -/
  pos : Nat
  /-- `CTRL.PIN` (R25). -/
  pin : Bool
  /-- `CTRL.IE` (R25). -/
  ie : Bool
  /-- `PR_MIN` (R27). -/
  prMin : Sample
  /-- `PR_MAX` (R27). -/
  prMax : Sample
  /-- `FRAME_CNT` (R29). -/
  frameCnt : Word
  /-- `DISCARD_CNT` (R30). -/
  discardCnt : Word
  /-- `RESYNC_CNT` (R31). -/
  resyncCnt : Word
  /-- `STATUS.DISP_VALID` (R26, R37). -/
  dispValid : Bool
  /-- `STATUS.NEW` (R26, R38). -/
  new : Bool
  /-- `STATUS.CMD_ERR` (R26, R39). -/
  cmdErr : Bool
  /-- `STATUS.OVF` (R26, R39). -/
  ovf : Bool
  /-- `STATUS.FAULT` (R26, R39). -/
  fault : BitVec 2
  /-- `DISP[0..1023]` (R36). -/
  disp : List Pixel
  /-- `OUT`, ghost, oldest event first (R46). -/
  out : List Event
  /-- `Cfg` as latched at the last reset (00_scope.md R8, 70_reset_and_hazards.md R212). -/
  cfg : Cfg
  /-- `CAP` as latched at the last reset (00_scope.md R7, R212). -/
  cap : BitVec 16
  /-- The configuration inputs, driven by the platform, where they have been changed since the last reset; none
  while they are what was latched (R212, R216). -/
  newConfig : Option (Cfg × BitVec 16)
  /-- The reset input is asserted (R211). -/
  resetIn : Bool
  /-- The command words waiting on the C-port, the first to be issued first (20_memory.md R69). -/
  cPort : List Word
  /-- The command words waiting on the O-port, the first to be issued first (R69). -/
  oPort : List Word
  /-- The response last returned (R91). -/
  resp : Option Response
  /-- The model's own: the port of the command being executed (R90). -/
  port : Port
  /-- The model's own: the index of the next free value to be drawn. -/
  draws : Nat
  deriving DecidableEq, Repr

/-- Why a step is stuck. -/
inductive Fault where
  /-- Raised by `step` before any command but RESET, when the configuration inputs differ from what was
  latched: "a platform that changes the configuration inputs without a reset gets no defined behaviour"
  (70_reset_and_hazards.md R216, V9 `stuck`). Safe: the model stops, it proves nothing of such a run. -/
  | configInputsChanged
  deriving DecidableEq, Repr

/-- Why a step is refused. -/
inductive Refusal where
  /-- Raised by an arm of `exec` whose instruction has no meaning yet; none is left. Safe. -/
  | notModelled (mnemonic : String)
  /-- Raised by `step` before any command when the latched configuration is ill formed: "a model refuses
  an ill-formed `Cfg` (it is not a configuration of this hardware)" (00_scope.md R9, D31, V8). Safe. -/
  | illFormedConfig
  deriving DecidableEq, Repr

/-- What a step answers. -/
abbrev Result := Host.Outcome State Fault Refusal

/-- The block right after reset (R44, 70_reset_and_hazards.md R210), with the configuration
`Cfg.default` (log 2) and `CAP` 4096 (R7) at its inputs and nothing waiting at its ports. The contents of
`DISP` are unspecified (R44, V1): the first free draw. -/
def State.reset : State where
  buf := []
  sync := .seeking
  pos := 0
  pin := false
  ie := false
  prMin := Cfg.default.defaultMin
  prMax := Cfg.default.defaultMax
  frameCnt := 0
  discardCnt := 0
  resyncCnt := 0
  dispValid := false
  new := false
  cmdErr := false
  ovf := false
  fault := 0
  disp := Config.freeFrame 0
  out := []
  cfg := Cfg.default
  cap := defaultCap
  newConfig := none
  resetIn := false
  cPort := []
  oPort := []
  resp := none
  port := .c
  draws := 1

end Sys2Proof.Machine
end

