-- ==== Sys2Proof/Machine/Flags.lean ====
section
/-! DEFINITION. The register layouts made of flags (10_state.md R22, R25, R26, R32; 43_control.md R175), the
halted condition (60_exceptions.md R194) and the notification output (10_state.md R47). -/

namespace Sys2Proof.Machine

open Sys2Proof

/-- The 2-bit encoding of `STATE` (R22). -/
def SyncState.bits (x : SyncState) : BitVec 2 :=
  match x with
  | .seeking => 0
  | .locked => 1
  | .resyncing => 2

/-- The bit of `BYTE_ORDER`: 0 little-endian, 1 big-endian (00_scope.md R8). -/
def byteOrderBit (o : ByteOrder) : BitVec 1 :=
  match o with
  | .little => 0
  | .big => 1

/-- The 4-bit response code (30_encoding.md R91). -/
def ResponseCode.bits (c : ResponseCode) : BitVec 4 :=
  match c with
  | .ok => 0
  | .illegalCommand => 1
  | .lengthFault => 2
  | .halted => 3

/-- `CTRL` as RD reads it: `{IE, PIN}` in bits 1:0 (R25, R175). -/
def State.ctrlBits (s : State) : BitVec 2 :=
  BitVec.ofBool s.ie ++ BitVec.ofBool s.pin

/-- `STATUS` as RD reads it: `{FAULT, OVF, CMD_ERR, NEW, DISP_VALID, STATE}` in bits 7:0 (R26, R175). -/
def State.statusBits (s : State) : BitVec 8 :=
  s.fault ++ BitVec.ofBool s.ovf ++ BitVec.ofBool s.cmdErr ++ BitVec.ofBool s.new ++
    BitVec.ofBool s.dispValid ++ s.sync.bits

/-- `CFG0` as RD reads it: `{MARK_LEN-1, MARK_EN, RANGE_EN, BYTE_ORDER}` in bits 4:0 (R32, R175). -/
def State.cfg0Bits (s : State) : BitVec 5 :=
  (s.cfg.markLen - 1).setWidth 2 ++ BitVec.ofBool s.cfg.markEn ++ BitVec.ofBool s.cfg.rangeEn ++
    byteOrderBit s.cfg.byteOrder

/-- The data of a successful SNAP: `{NEW_before, DISP_VALID}` in bits 1:0 (R176). -/
def State.snapBits (s : State) : BitVec 2 :=
  BitVec.ofBool s.new ++ BitVec.ofBool s.dispValid

/-- The halted condition: `STATUS.FAULT ≠ 0` (60_exceptions.md R194, R202). -/
def State.halted (s : State) : Bool := s.fault != 0

/-- The output `irq = NEW and IE`, a function of the state (R47, 60_exceptions.md R196). -/
def State.irq (s : State) : Bool := s.new && s.ie

end Sys2Proof.Machine
end

