-- ==== Sys2Proof/Machine/Operands.lean ====
section
/-! DEFINITION. The operand forms: the register file behind RD and WR (10_state.md R24 to R35), and the samples
of a window in the configured byte order (20_memory.md R65). -/

namespace Sys2Proof.Machine

open Sys2Proof

/-- The 17 registers of the map (R24). -/
inductive Reg where
  | ctrl | status | prMin | prMax | len | frameCnt | discardCnt | resyncCnt | cfg0
  | saneMin | saneMax | markOff | markLo | markHi | cap | defMin | defMax
  deriving DecidableEq, Repr

/-- The address of a register (R24). -/
def Reg.addr (r : Reg) : RegAddr :=
  match r with
  | .ctrl => 0x00
  | .status => 0x01
  | .prMin => 0x02
  | .prMax => 0x03
  | .len => 0x04
  | .frameCnt => 0x05
  | .discardCnt => 0x06
  | .resyncCnt => 0x07
  | .cfg0 => 0x08
  | .saneMin => 0x09
  | .saneMax => 0x0A
  | .markOff => 0x0B
  | .markLo => 0x0C
  | .markHi => 0x0D
  | .cap => 0x0E
  | .defMin => 0x0F
  | .defMax => 0x10

/-- The registers, in the order of their addresses (R24). -/
def Reg.all : List Reg :=
  [ .ctrl, .status, .prMin, .prMax, .len, .frameCnt, .discardCnt, .resyncCnt, .cfg0,
    .saneMin, .saneMax, .markOff, .markLo, .markHi, .cap, .defMin, .defMax ]

/-- The register RD reads at an address; none at the reserved addresses 0x11 to 0xFF (R24, R85). -/
def Reg.atAddr (a : RegAddr) : Option Reg :=
  Reg.all.find? (fun r => r.addr == a)

/-- The registers WR accepts (R85, 43_control.md R172). -/
inductive WritableReg where
  | ctrl | prMin | prMax
  deriving DecidableEq, Repr

/-- The register WR writes at an address; none at a read-only or a reserved address (R85). -/
def WritableReg.atAddr (a : RegAddr) : Option WritableReg :=
  if a = 0x00 then some .ctrl
  else if a = 0x02 then some .prMin
  else if a = 0x03 then some .prMax
  else none

/-- `REG[r]`, zero-extended to 32 bits (R24 to R35, R174). -/
def State.readReg (s : State) (r : Reg) : Word :=
  match r with
  | .ctrl => s.ctrlBits.setWidth 32
  | .status => s.statusBits.setWidth 32
  | .prMin => s.prMin.setWidth 32
  | .prMax => s.prMax.setWidth 32
  | .len => (BitVec.ofNat 16 s.buf.length).setWidth 32
  | .frameCnt => s.frameCnt
  | .discardCnt => s.discardCnt
  | .resyncCnt => s.resyncCnt
  | .cfg0 => s.cfg0Bits.setWidth 32
  | .saneMin => s.cfg.saneMin.setWidth 32
  | .saneMax => s.cfg.saneMax.setWidth 32
  | .markOff => s.cfg.markOff.setWidth 32
  | .markLo => (s.cfg.markByte 1 ++ s.cfg.markByte 0).setWidth 32
  | .markHi => (s.cfg.markByte 3 ++ s.cfg.markByte 2).setWidth 32
  | .cap => s.cap.setWidth 32
  | .defMin => s.cfg.defaultMin.setWidth 32
  | .defMax => s.cfg.defaultMax.setWidth 32

/-- `REG[r] <- v` (R172): `CTRL` takes bits 0 and 1 and ignores 15:2 (R25); the one register named and
nothing else. -/
def State.writeReg (s : State) (r : WritableReg) (v : Sample) : State :=
  match r with
  | .ctrl => { s with pin := v.getLsbD 0, ie := v.getLsbD 1 }
  | .prMin => { s with prMin := v }
  | .prMax => { s with prMax := v }

/-- The sample made of the byte that arrives first and the byte that arrives second (R65, 41_sample_decoder.md
R131). What the two words mean is the spec's general knowledge (K1). -/
def joinBytes (o : ByteOrder) (first second : Byte) : Sample :=
  match o with
  | .little => second ++ first
  | .big => first ++ second

/-- `sample(W, i)` (R65). -/
def sampleAt (o : ByteOrder) (w : List Byte) (i : Nat) : Sample :=
  joinBytes o (w.getD (2 * i) 0) (w.getD (2 * i + 1) 0)

/-- Every consecutive 2-byte pair as one sample, from window index 0 on (R131). That sample `i` of the
result is `sample(W, i)` is `Laws.samples_getElem?`. -/
def samples (o : ByteOrder) (w : List Byte) : List Sample :=
  match w with
  | first :: second :: rest => joinBytes o first second :: samples o rest
  | _ => []

end Sys2Proof.Machine
end

