-- ==== Sys2Proof/Machine/Ops.lean ====
section
/-! DEFINITION. The named operations the meanings share: the ports and the fetch of the next command
(20_memory.md R69), responses (30_encoding.md R91), the observation trace (10_state.md R46), the accesses to BUF
and DISP (20_memory.md R61, R62), taking an exception and what returns from one (60_exceptions.md R190 to R199),
and the checks of the dispatch (30_encoding.md R90). -/

namespace Sys2Proof.Machine

open Sys2Proof

/-! ### Responses and the observation trace -/

/-- `respond (code, data)` on the port the command came from; `frame` only for SNAP (R91). -/
def State.respondWith (s : State) (code : ResponseCode) (data : Word) (frame : Option (List Pixel)) : State :=
  { s with resp := some { port := s.port, code := code, data := data, frame := frame } }

/-- `respond (OK, data)` (R91). -/
def State.respond (s : State) (data : Word) : State :=
  s.respondWith .ok data none

/-- `emit e`: append the event to `OUT` (00_scope.md R13, R46). -/
def State.emit (s : State) (e : Event) : State :=
  { s with out := s.out ++ [e] }

/-! ### Taking an exception, and what returns from one -/

/-- The three exceptions of the block (60_exceptions.md R190). LengthFault carries the offending length,
which no register stores. -/
inductive Exc where
  | illegalCommand
  | lengthFault (len : Nat)
  | halted
  deriving DecidableEq, Repr

/-- `raise X`: the whole entry of an exception is the effect column of R190 and nothing more (R198). `s` is
the state at the point of the `raise`; what the command did before it stays (R192). -/
def State.raise (s : State) (e : Exc) : State :=
  match e with
  | .illegalCommand => { s with cmdErr := true }.respondWith .illegalCommand 0 none
  | .lengthFault _ => { s with fault := 1 }.respondWith .lengthFault 0 none
  | .halted => s.respondWith .halted 0 none

/-- The configuration inputs: what was latched, unless the platform has changed them since
(70_reset_and_hazards.md R212). -/
def State.configInputs (s : State) : Cfg × BitVec 16 := s.newConfig.getD (s.cfg, s.cap)

/-- Every state element to its reset value, `Cfg` and `CAP` latched again from the configuration inputs
(R44, 70_reset_and_hazards.md R210, R212). It is the only return from the halted condition
(60_exceptions.md R199). The contents of `DISP` are unspecified: the next free draw. The inputs of the block
and the port of the command are not state of the block and stay. -/
def State.resetBlock (s : State) : State :=
  { s with
    buf := []
    sync := .seeking
    pos := 0
    pin := false
    ie := false
    prMin := s.configInputs.1.defaultMin
    prMax := s.configInputs.1.defaultMax
    frameCnt := 0
    discardCnt := 0
    resyncCnt := 0
    dispValid := false
    new := false
    cmdErr := false
    ovf := false
    fault := 0
    disp := Config.freeFrame s.draws
    out := []
    cfg := s.configInputs.1
    cap := s.configInputs.2
    newConfig := none
    resp := none
    draws := s.draws + 1 }

/-- The reset input: the waiting commands of both ports are dropped without response and RESET executes
(R197, R211); the input is then released. -/
def State.resetByInput (s : State) : State :=
  { s.resetBlock with cPort := [], oPort := [], resetIn := false }

/-! ### The checks of the dispatch, in the order of R90 -/

/-- R90 step 3: on the O-port the command raises IllegalCommand (R86). -/
def requireCPort (s : State) (body : Result) : Result :=
  match s.port with
  | .c => body
  | .o => .next (s.raise .illegalCommand)

/-- R90 step 6: on a halted block the command raises Halted (60_exceptions.md R193). -/
def requireRunning (s : State) (body : Result) : Result :=
  if s.halted then .next (s.raise .halted) else body

/-! ### BUF, a first-in first-out byte store (R61) -/

/-- `BUF <- BUF ++ [b]`: append at the newest end (00_scope.md R12). -/
def State.appendByte (s : State) (b : Byte) : State :=
  { s with buf := s.buf ++ [b] }

/-- `W <- take(BUF, FRAME_BYTES)`: the candidate frame, at BUF index 0 (R107). -/
def State.window (s : State) : List Byte := s.buf.take frameBytes

/-- Remove the frame from the oldest end: `BUF <- drop(BUF, FRAME_BYTES)`, `POS` past it (R105, R113). -/
def State.dropFrame (s : State) : State :=
  { s with buf := s.buf.drop frameBytes, pos := s.pos + frameBytes }

/-- Remove the oldest byte: `emit Discard(BUF[0])`, `BUF <- drop(BUF, 1)`, `POS + 1`, `DISCARD_CNT + 1` mod
2^32; the overflow drop (R106) and the resync step (R109) alike. On an empty `BUF` there is no oldest byte
and nothing changes; with a `CAP` in range neither rule meets that. -/
def State.discardOldest (s : State) : State :=
  match s.buf with
  | [] => s
  | b :: rest =>
    { s with
      buf := rest
      pos := s.pos + 1
      discardCnt := s.discardCnt + 1
      out := s.out ++ [.discard b] }

/-- `BUF <- empty ; POS <- 0` (R111). -/
def State.clearBuf (s : State) : State :=
  { s with buf := [], pos := 0 }

/-! ### DISP, written whole and read whole (R62) -/

/-- `MemRead(DISP, 0, N_SAMPLES)`: all pixels in one atomic read (43_control.md R176). -/
def State.readDisp (s : State) : List Pixel := s.disp

/-- `MemWrite(DISP, 0, N_SAMPLES, P)`: all pixels in one atomic write (42_colour_mapper.md R150). -/
def State.writeDisp (s : State) (p : List Pixel) : State :=
  { s with disp := p }

/-- The form of the block's memories: `DISP` has its 1024 pixels (R36, R60) and `BUF` holds at most `CAP`
bytes (R21). Every step keeps it (Certificates), reset has it. -/
def Memory.wf (s : State) : Bool :=
  decide (s.disp.length = nSamples) && decide (s.buf.length ≤ s.cap.toNat)

/-! ### The ports: the fetch of the next command -/

/-- Take the first word waiting on the C-port. -/
def State.takeC (s : State) (rest : List Word) : State := { s with cPort := rest, port := .c }

/-- Take the first word waiting on the O-port. -/
def State.takeO (s : State) (rest : List Word) : State := { s with oPort := rest, port := .o }

/-- The next free value to be drawn is number `n`. -/
def State.setDraws (s : State) (n : Nat) : State := { s with draws := n }

/-- The next command of the total order (R69): the first word waiting on a port, with the state in which that
word is taken and its port is noted. Where both ports have a command waiting either may go first (R197): a
free value chooses. None where nothing waits. -/
def State.nextCommand (s : State) : Option (Word × State) :=
  match s.cPort, s.oPort with
  | [], [] => none
  | w :: ws, [] => some (w, s.takeC ws)
  | [], v :: vs => some (v, s.takeO vs)
  | w :: ws, v :: vs =>
    match Config.arbiter s.draws with
    | .c => some (w, (s.setDraws (s.draws + 1)).takeC ws)
    | .o => some (v, (s.setDraws (s.draws + 1)).takeO vs)

/-- The configuration inputs are what was latched at the last reset (70_reset_and_hazards.md R212, R216). -/
def State.inputsStable (s : State) : Bool := s.newConfig.isNone

/-- The word is the RESET command on the C-port, which latches the configuration inputs (R171, R212). -/
def isResetCommand (w : Word) (s : State) : Bool :=
  (w == encode .reset) && (s.port == .c)

end Sys2Proof.Machine
end

