-- ==== Sys2Proof/Machine/SampleDecoder.lean ====
section
/-! DEFINITION. The sample decoder (41_sample_decoder.md R130 to R135). -/

namespace Sys2Proof.Machine

open Sys2Proof

/-- `decode(Cfg, W)` (R131): the ThermalFrame of a window of `FRAME_BYTES` bytes; of any other length,
LengthFault (R134). -/
def decodeFrame (c : Cfg) (w : List Byte) : Except Exc (List Sample) :=
  if w.length = frameBytes then .ok (samples c.byteOrder w) else .error (.lengthFault w.length)

/-- `swap(W)`: the bytes of every pair exchanged (R132). -/
def swapPairs (w : List Byte) : List Byte :=
  match w with
  | first :: second :: rest => second :: first :: swapPairs rest
  | short => short

end Sys2Proof.Machine
end

