-- ==== Sys2Proof/Machine/ColourMapper.lean ====
section
/-! DEFINITION. The colour mapper: the range update, the mapping, PUBLISH and RRST (42_colour_mapper.md). -/

namespace Sys2Proof.Machine

open Sys2Proof

/-- `LUT[k] = Cfg.PALETTE[k]`, `0 <= k <= 255` (R146, 20_memory.md R63). -/
def lut (c : Cfg) (k : Nat) : Pixel := c.palette[k]?.getD 0

/-- The clamp `min(max(s, lo), hi)` (R143). -/
def clampSample (x lo hi : Sample) : Nat := min (max x.toNat lo.toNat) hi.toNat

/-- The table index `((c - lo) * 255) div (hi - lo)` of the clamped sample, for `lo < hi` (R145). -/
def tableIndex (x lo hi : Sample) : Nat :=
  ((clampSample x lo hi - lo.toNat) * 255) / (hi.toNat - lo.toNat)

/-- `map_sample(s, lo, hi)`: the degenerate range `lo >= hi` maps to `LUT[0]`, with no division (R144, R149). -/
def mapSample (c : Cfg) (x lo hi : Sample) : Pixel :=
  if hi ≤ lo then lut c 0 else lut c (tableIndex x lo hi)

/-- The frame mapping, element by element (R142). -/
def mapFrame (c : Cfg) (t : List Sample) (lo hi : Sample) : List Pixel :=
  t.map (fun x => mapSample c x lo hi)

/-- The smaller of two samples, unsigned (00_scope.md R11). -/
def sampleMin (a b : Sample) : Sample := if a ≤ b then a else b

/-- The larger of two samples, unsigned (00_scope.md R11). -/
def sampleMax (a b : Sample) : Sample := if a ≤ b then b else a

/-- `min over i of T[i]` (R140). -/
def frameMin (t : List Sample) : Sample := t.foldl sampleMin 0xFFFF

/-- `max over i of T[i]` (R140). -/
def frameMax (t : List Sample) : Sample := t.foldl sampleMax 0

/-- The range policy (R141): in AUTO the frame's own minimum and maximum, in PINNED left alone. -/
def State.updateRange (s : State) (t : List Sample) : State :=
  if s.pin then s else { s with prMin := frameMin t, prMax := frameMax t }

/-- The write of the latest-frame slot, with its flags, its count and its event (R140, R150). `t` is
mapped against the range registers as they are. -/
def State.showFrame (s : State) (w : List Byte) (t : List Sample) : State :=
  { s.writeDisp (mapFrame s.cfg t s.prMin s.prMax) with
    dispValid := true
    new := true
    frameCnt := s.frameCnt + 1 }.emit
      (.frame w t s.prMin s.prMax (mapFrame s.cfg t s.prMin s.prMax))

/-- `PUBLISH(W)` (R140): decode, update the range, map, write the slot. The only exception is LengthFault, and
then nothing of it has happened (60_exceptions.md R192). -/
def State.publish (s : State) (w : List Byte) : Except Exc State :=
  match decodeFrame s.cfg w with
  | .ok t => .ok ((s.updateRange t).showFrame w t)
  | .error e => .error e

/-- The effect of RRST once it is dispatched (R151). -/
def State.resetRange (s : State) : State :=
  { s with prMin := s.cfg.defaultMin, prMax := s.cfg.defaultMax }.respond 0

/-- `RRST` (R151): C-port only, Halted on a halted block. -/
def execRrst (s : State) : Result :=
  requireCPort s (requireRunning s (.next s.resetRange))

end Sys2Proof.Machine
end

