-- ==== Sys2Proof/Machine/Synchronizer.lean ====
section
/-! DEFINITION. The frame synchronizer: `VALID`, PUSH, FLUSH, IDLE (40_synchronizer.md). -/

namespace Sys2Proof.Machine

open Sys2Proof

/-- `RANGE_OK(Cfg, W)`: every sample of the window is in `[SANE_MIN, SANE_MAX]`, unsigned (R102). -/
def rangeOk (c : Cfg) (w : List Byte) : Bool :=
  (samples c.byteOrder w).all (fun x => decide (c.saneMin ≤ x) && decide (x ≤ c.saneMax))

/-- `MARK_OK(Cfg, W)`: the bytes at `MARK_OFF` are the marker, in arrival order (R103). -/
def markOk (c : Cfg) (w : List Byte) : Bool :=
  (List.range c.markLen.toNat).all (fun j => w.getD (c.markOff.toNat + j) 0 == c.markByte j)

/-- `VALID(Cfg, W)`, the validation predicate (R101). -/
def valid (c : Cfg) (w : List Byte) : Bool :=
  (!c.rangeEn || rangeOk c w) && (!c.markEn || markOk c w)

/-- Step 1 of PUSH: append, enforcing the cap (R105, R106). -/
def State.acceptByte (s : State) (b : Byte) : State :=
  if s.buf.length = s.cap.toNat then
    { s.discardOldest with ovf := true }.appendByte b
  else s.appendByte b

/-- A successful check: the frame leaves `BUF` and `STATE` becomes `LOCKED` (R108). -/
def State.lockOnFrame (s : State) : State :=
  { s.dropFrame with sync := .locked }

/-- A new resync cycle is counted when the check that failed found `STATE = LOCKED` (R109, R31). -/
def State.countResync (s : State) : State :=
  if s.sync = .locked then { s with resyncCnt := s.resyncCnt + 1 } else s

/-- A failed check, the resync step: through `RESYNCING`, one byte discarded, back to `SEEKING` (R109). -/
def State.resync (s : State) : State :=
  { { s.countResync with sync := .resyncing }.discardOldest with sync := .seeking }

/-- What one pass of the loop body of PUSH comes to. -/
inductive Pass where
  /-- The pass went to its end; `published` is 0 or 1. -/
  | ended (s : State) (published : Nat)
  /-- PUBLISH raised an exception; the state is that at the `raise`. -/
  | raised (s : State) (e : Exc)

/-- The body of the extraction loop, run on a `BUF` of at least `FRAME_BYTES` bytes (R105, R107 to R109). -/
def State.loopBody (s : State) : Pass :=
  if valid s.cfg s.window then
    match s.lockOnFrame.publish s.window with
    | .ok s' => .ended s' 1
    | .error e => .raised s.lockOnFrame e
  else .ended s.resync 0

/-- What the extraction loop comes to: the state and how many frames it published, or an exception. -/
inductive Drained where
  | done (s : State) (n : Nat)
  | raised (s : State) (e : Exc)

/-- `while len(BUF) >= FRAME_BYTES` (R105, R107), after `n` frames. Every pass shortens `BUF`, so the length
of `BUF` is fuel enough (Laws.drain_done). -/
def State.drain (fuel : Nat) (s : State) (n : Nat) : Drained :=
  match fuel with
  | 0 => .done s n
  | f + 1 =>
    if frameBytes ≤ s.buf.length then
      match s.loopBody with
      | .ended s' k => State.drain f s' (n + k)
      | .raised s' e => .raised s' e
    else .done s n

/-- The effect of PUSH once it is dispatched: step 1, step 2, response (R105). -/
def State.pushByte (s : State) (b : Byte) : State :=
  match State.drain (s.acceptByte b).buf.length (s.acceptByte b) 0 with
  | .done s' n => s'.respond (BitVec.ofNat 32 n)
  | .raised s' e => s'.raise e

/-- The effect of FLUSH once it is dispatched (R111). -/
def State.flush (s : State) : State :=
  { (s.emit (.flushed s.buf.length)).clearBuf with sync := .seeking }.respond 0

/-- `PUSH b` (R105): C-port only, Halted on a halted block. -/
def execPush (b : Byte) (s : State) : Result :=
  requireCPort s (requireRunning s (.next (s.pushByte b)))

/-- `FLUSH` (R111): C-port only, Halted on a halted block. -/
def execFlush (s : State) : Result :=
  requireCPort s (requireRunning s (.next s.flush))

/-- `IDLE` (R112): either port, also when halted. -/
def execIdle (s : State) : Result :=
  .next (s.respond 0)

end Sys2Proof.Machine
end

