-- ==== Sys2Proof/Machine/Control.lean ====
section
/-! DEFINITION. The control commands RESET, WR, RD, SNAP (43_control.md). -/

namespace Sys2Proof.Machine

open Sys2Proof

/-- `RESET` (R171): C-port only, never Halted. -/
def execReset (s : State) : Result :=
  requireCPort s (.next (s.resetBlock.respond 0))

/-- `WR a, v` (R172): C-port only, then the address, then Halted, in the order of 30_encoding.md R90. -/
def execWr (a : RegAddr) (v : Sample) (s : State) : Result :=
  requireCPort s
    (match WritableReg.atAddr a with
     | some r => requireRunning s (.next ((s.writeReg r v).respond 0))
     | none => .next (s.raise .illegalCommand))

/-- `RD a` (R174): either port, also when halted; a reserved address is illegal (R85). -/
def execRd (a : RegAddr) (s : State) : Result :=
  match Reg.atAddr a with
  | some r => .next (s.respond (s.readReg r))
  | none => .next (s.raise .illegalCommand)

/-- `SNAP` (R176): either port, also when halted; the frame and the two bits as they were, then `NEW` cleared. -/
def execSnap (s : State) : Result :=
  .next ({ s with new := false }.respondWith .ok (s.snapBits.setWidth 32) (some s.readDisp))

end Sys2Proof.Machine
end

