-- ==== Sys2Proof/Machine/Dispatch.lean ====
section
/-! DEFINITION. One arm per command (30_encoding.md R90 step 7). -/

namespace Sys2Proof.Machine

open Sys2Proof

/-- Execute a decoded command in a state that holds the port it arrived on (R90 steps 3 to 7). -/
def exec (i : Instr) (s : State) : Host.Outcome State Fault Refusal :=
  match i with
  | .idle => Sys2Proof.Machine.execIdle s
  | .push b => Sys2Proof.Machine.execPush b s
  | .flush => Sys2Proof.Machine.execFlush s
  | .rrst => Sys2Proof.Machine.execRrst s
  | .wr a v => Sys2Proof.Machine.execWr a v s
  | .rd a => Sys2Proof.Machine.execRd a s
  | .snap => Sys2Proof.Machine.execSnap s
  | .reset => Sys2Proof.Machine.execReset s

end Sys2Proof.Machine
end

