-- ==== Sys2Proof/Machine/Step.lean ====
section
/-! DEFINITION. One step: the reset input, or the next command of the total order, decoded and executed as one
atomic step (20_memory.md R68, R69; 30_encoding.md R90; 60_exceptions.md R197). -/

namespace Sys2Proof.Machine

open Sys2Proof

/-- R90 on a word whose port the state holds: a word that selects no row raises IllegalCommand, any other
is executed. -/
def issue (w : Word) (s : State) : Host.Outcome State Fault Refusal :=
  match decode w with
  | .ok i => exec i s
  | .error _ => .next (s.raise .illegalCommand)

/-- One step of the block. The reset input overrides everything (R197, R211). An ill-formed configuration is
refused (R9). With nothing waiting the block does not act (R20, R213). A command is taken and issued; if the
configuration inputs were changed without a reset there is no step but RESET (R216, V9). -/
def step (s : State) : Host.Outcome State Fault Refusal :=
  if s.resetIn then .next s.resetByInput
  else if configOk s.cfg s.cap then
    match s.nextCommand with
    | none => .next s
    | some (w, s') =>
      if s.inputsStable || isResetCommand w s' then issue w s' else .fault .configInputsChanged
  else .refused .illFormedConfig

/-- `s` with the word the next command the block executes: waiting alone, on the C-port, the reset input
released. It stands for the acquisition agent presenting the word (log 4). -/
def State.withFetchWord (s : State) (nbits w : Nat) : State :=
  { s with cPort := [BitVec.ofNat 32 (w % 2 ^ nbits)], oPort := [], resetIn := false }

end Sys2Proof.Machine
end

