-- ==== Sys2Proof/Machine/Assembler.lean ====
section
/-! DEFINITION. The pseudo-commands and their expansions, and the text form of a command (30_encoding.md R92,
R93). No command of the block: a notation for sequences of commands. -/

namespace Sys2Proof.Machine

open Sys2Proof

/-- The pseudo-commands of R93. -/
inductive Pseudo where
  | pushN (bytes : List Byte)
  | rep (n : Nat) (body : List Instr)
  | pushS16 (x : Sample)
  | pin (lo hi : Sample) (ie : Bool)
  | auto (ie : Bool)
  | nop
  deriving DecidableEq, Repr

/-- `PUSHN b0, ..., bk`: one RawByteChunk, its bytes in stream order (R93, R84). -/
def pushAll (bytes : List Byte) : List Instr := bytes.map Instr.push

/-- The value `2*ie + pin` that PIN and AUTO write to `CTRL` (R93). -/
def ctrlValue (ie pin : Bool) : Sample := (BitVec.ofBool ie ++ BitVec.ofBool pin).setWidth 16

/-- The expansion of a pseudo-command, in the configured byte order (R93). -/
def Pseudo.expand (o : ByteOrder) (p : Pseudo) : List Instr :=
  match p with
  | .pushN bytes => pushAll bytes
  | .rep n body => (List.replicate n body).flatten
  | .pushS16 x =>
    match o with
    | .little => pushAll [x.extractLsb' 0 8, x.extractLsb' 8 8]
    | .big => pushAll [x.extractLsb' 8 8, x.extractLsb' 0 8]
  | .pin lo hi ie =>
    [.wr Reg.prMin.addr lo, .wr Reg.prMax.addr hi, .wr Reg.ctrl.addr (ctrlValue ie true)]
  | .auto ie => [.wr Reg.ctrl.addr (ctrlValue ie false)]
  | .nop => [.idle]

/-- The name of a register in the text form (R24, R92). -/
def Reg.name (r : Reg) : String :=
  match r with
  | .ctrl => "CTRL"
  | .status => "STATUS"
  | .prMin => "PR_MIN"
  | .prMax => "PR_MAX"
  | .len => "LEN"
  | .frameCnt => "FRAME_CNT"
  | .discardCnt => "DISCARD_CNT"
  | .resyncCnt => "RESYNC_CNT"
  | .cfg0 => "CFG0"
  | .saneMin => "SANE_MIN"
  | .saneMax => "SANE_MAX"
  | .markOff => "MARK_OFF"
  | .markLo => "MARK_LO"
  | .markHi => "MARK_HI"
  | .cap => "CAP"
  | .defMin => "DEF_MIN"
  | .defMax => "DEF_MAX"

/-- A register address in the text form: the register's name, or the number where no register is. -/
def addrText (a : RegAddr) : String :=
  match Reg.atAddr a with
  | some r => r.name
  | none => toString a.toNat

/-- The text form of a command, numbers in decimal (R92, 00_scope.md R11). -/
def instrText (i : Instr) : String :=
  match i with
  | .idle => "IDLE"
  | .push b => "PUSH " ++ toString b.toNat
  | .flush => "FLUSH"
  | .rrst => "RRST"
  | .wr a v => "WR " ++ addrText a ++ ", " ++ toString v.toNat
  | .rd a => "RD " ++ addrText a
  | .snap => "SNAP"
  | .reset => "RESET"

end Sys2Proof.Machine
end

