-- ==== Sys2Proof/Safety.lean ====
section
/-! DEFINITION. The terms the claims use: what the observation trace says, the invariants of 10_state.md section 9,
runs of commands, and what two runs have in common. -/

namespace Sys2Proof.Safety

open Sys2Proof Sys2Proof.Machine

/-! ### Responses -/

/-- The response `(code, data)` without a frame, on the port of the command (30_encoding.md R91). -/
def answer (s : State) (code : ResponseCode) (data : Word) : Option Response :=
  some { port := s.port, code := code, data := data, frame := none }

/-- The state after IllegalCommand: `CMD_ERR` set, response (1, 0), nothing else (60_exceptions.md R191). -/
def afterIllegal (s : State) : State := { s with cmdErr := true, resp := answer s .illegalCommand 0 }

/-- The state after Halted: response (3, 0), nothing else (60_exceptions.md R193). -/
def afterHalted (s : State) : State := { s with resp := answer s .halted 0 }

/-- The words that raise IllegalCommand on a port (30_encoding.md R87): those that select no row, those whose
register address is refused, those the port may not issue. -/
def IllegalWord (p : Port) (w : Word) : Prop :=
  match decode w with
  | .error _ => True
  | .ok i => i.wf = false ∨ (p = .o ∧ i.allowedOnO = false)

/-- The word is the RESET command on the C-port. -/
def ResetWord (p : Port) (w : Word) : Prop := decode w = .ok .reset ∧ p = .c

/-! ### What the observation trace says (10_state.md R46) -/

/-- The event is a publish. -/
def isFrame (e : Event) : Bool :=
  match e with
  | .frame _ _ _ _ _ => true
  | .discard _ => false
  | .flushed _ => false

/-- The event is the removal of one byte. -/
def isDiscard (e : Event) : Bool :=
  match e with
  | .frame _ _ _ _ _ => false
  | .discard _ => true
  | .flushed _ => false

/-- How many frames were published. -/
def frameCount (out : List Event) : Nat := (out.filter isFrame).length

/-- How many bytes were discarded. -/
def discardCount (out : List Event) : Nat := (out.filter isDiscard).length

/-- The pixels of the last `Frame` event, if there is one. -/
def lastFrame (out : List Event) : Option (List Pixel) :=
  out.foldl
    (fun shown e =>
      match e with
      | .frame _ _ _ _ p => some p
      | .discard _ => shown
      | .flushed _ => shown)
    none

/-- The RawFrame and the ThermalFrame of every `Frame` event, in order. -/
def extracted (out : List Event) : List (List Byte × List Sample) :=
  out.filterMap
    (fun e =>
      match e with
      | .frame w t _ _ _ => some (w, t)
      | .discard _ => none
      | .flushed _ => none)

/-- The bytes that left `BUF` at its oldest end since the last FLUSH, in order: those of the frames and those
discarded. -/
def spanBytes (out : List Event) : List Byte :=
  out.foldl
    (fun gone e =>
      match e with
      | .frame w _ _ _ _ => gone ++ w
      | .discard b => gone ++ [b]
      | .flushed _ => [])
    []

/-- The stream since the last FLUSH as the block accounts for it: what left `BUF`, then what is in it. -/
def spanStream (s : State) : List Byte := spanBytes s.out ++ s.buf

/-! ### Invariants (10_state.md section 9) -/

/-- Items 1 to 4: at most `FRAME_BYTES - 1` bytes wait, no overflow, no fault, `STATE` is 0 or 1. -/
def SyncInv (s : State) : Prop :=
  s.buf.length ≤ frameBytes - 1 ∧ s.ovf = false ∧ s.fault = 0 ∧ (s.sync = .seeking ∨ s.sync = .locked)

/-- Item 5: `DISP_VALID = 1` if and only if `OUT` holds a `Frame` event, and then `DISP` is the `P` of the last. -/
def SlotInv (s : State) : Prop :=
  s.dispValid = (lastFrame s.out).isSome ∧ ∀ p, lastFrame s.out = some p → s.disp = p

/-- The counters and `POS` agree with the trace: FRAME_CNT and DISCARD_CNT count its events mod 2^32
(10_state.md R29, R30), `POS` the bytes removed since the last FLUSH (R23). -/
def TraceInv (s : State) : Prop :=
  s.frameCnt = BitVec.ofNat 32 (frameCount s.out) ∧
    s.discardCnt = BitVec.ofNat 32 (discardCount s.out) ∧ s.pos = (spanBytes s.out).length

/-! ### Runs of commands -/

/-- Commands issued one after the other on the port the state holds, stopping where one stops. -/
def runInstrs (is : List Instr) (s : State) : Result :=
  match is with
  | [] => .next s
  | i :: rest =>
    match exec i s with
    | .next t => runInstrs rest t
    | .fault f => .fault f
    | .refused r => .refused r

/-- A total order of command words of both ports (20_memory.md R69), each issued on its port. -/
def runCommands (cs : List (Port × Word)) (s : State) : Result :=
  match cs with
  | [] => .next s
  | (p, w) :: rest =>
    match issue w { s with port := p } with
    | .next t => runCommands rest t
    | .fault f => .fault f
    | .refused r => .refused r

/-- The word is IDLE, RD or SNAP. -/
def observes (w : Word) : Bool :=
  match decode w with
  | .ok i => i.allowedOnO
  | .error _ => false

/-- The command is WR or RRST. -/
def setsRange (i : Instr) : Bool :=
  match i with
  | .idle => false
  | .push _ => false
  | .flush => false
  | .rrst => true
  | .wr _ _ => true
  | .rd _ => false
  | .snap => false
  | .reset => false

/-- The word is WR or RRST. -/
def controlsRange (w : Word) : Bool :=
  match decode w with
  | .ok i => setsRange i
  | .error _ => false

/-- Two states differ at most in what observing leaves behind: `NEW`, `CMD_ERR`, the last response and the port
of the last command. -/
def SameButObserving (s t : State) : Prop :=
  { s with new := t.new, cmdErr := t.cmdErr, resp := t.resp, port := t.port } = t

/-- Two states agree on the synchronizer and on the RawFrames and ThermalFrames extracted so far. -/
def SameStream (s t : State) : Prop :=
  s.buf = t.buf ∧ s.sync = t.sync ∧ s.pos = t.pos ∧ s.discardCnt = t.discardCnt ∧
    s.resyncCnt = t.resyncCnt ∧ s.frameCnt = t.frameCnt ∧ extracted s.out = extracted t.out

/-- The window of a stream at offset `m`. -/
def windowAt (xs : List Byte) (m : Nat) : List Byte := (xs.drop m).take frameBytes

/-! ### The offsets one PUSH examines (40_synchronizer.md R107) -/

/-- The values of `POS` at which the extraction loop evaluates `VALID`, in order. -/
def examined (fuel : Nat) (s : State) : List Nat :=
  match fuel with
  | 0 => []
  | f + 1 =>
    if frameBytes ≤ s.buf.length then
      s.pos ::
        (match s.loopBody with
         | .ended s' _ => examined f s'
         | .raised _ _ => [])
    else []

/-- The values of `POS` at which `PUSH b` evaluates `VALID`. -/
def pushExamines (s : State) (b : Byte) : List Nat :=
  examined (s.acceptByte b).buf.length (s.acceptByte b)

/-! ### Frames of the special registers -/

/-- `t` has the configuration, the inputs, `CTRL`, `CMD_ERR`, `FAULT`, the port and the draws of `s`. -/
def SameControl (s t : State) : Prop :=
  t.pin = s.pin ∧ t.ie = s.ie ∧ t.cmdErr = s.cmdErr ∧ t.fault = s.fault ∧ t.cfg = s.cfg ∧
    t.cap = s.cap ∧ t.newConfig = s.newConfig ∧ t.resetIn = s.resetIn ∧ t.cPort = s.cPort ∧
    t.oPort = s.oPort ∧ t.port = s.port ∧ t.draws = s.draws

/-- `t` has the PaletteRange, the latest-frame slot, its flags and its count of `s`. -/
def SameOutput (s t : State) : Prop :=
  t.prMin = s.prMin ∧ t.prMax = s.prMax ∧ t.disp = s.disp ∧ t.dispValid = s.dispValid ∧
    t.new = s.new ∧ t.frameCnt = s.frameCnt

end Sys2Proof.Safety
end

