-- ==== Sys2Proof/Certificates/Slice0/Obligations.lean ====
section
/-! DEFINITION. The statements for the provers. Each docstring names the rule of spec/ it formalises. The fields
`resp`, `port` and `draws` stand for the response of R91, the port argument of R90 and the free values (logs 6, 15). -/

open Sys2Proof Sys2Proof.Machine Sys2Proof.Safety

/-! ### The command word -/

/-- Decoding the word of a command gives the command back, with every operand at every value (30_encoding.md
R80 to R82, R92). -/
def Obligations.DecodeOfEncodeIsTheCommand : Prop :=
  ∀ i : Instr, decode (encode i) = .ok i

/-- Every legal word has one reading: the word of the command it decodes to is the word itself (R80 to R82). -/
def Obligations.EncodeOfDecodeIsTheWord : Prop :=
  ∀ (w : Word) (i : Instr), decode w = .ok i → encode i = w

/-- No word matches two rows of the opcode map (R82). -/
def Obligations.NoWordSelectsTwoRows : Prop :=
  ∀ (w : Word) (r q : Row), r ∈ opcodeMap → q ∈ opcodeMap → r.selects w = true → q.selects w = true → r = q

/-- R83: a word whose `OP` names a command but which has a nonzero must-be-zero bit matches no row and is illegal. -/
def Obligations.MustBeZeroBitsAreChecked : Prop :=
  ∀ (w : Word) (s : State),
    (Word.op w < 0x7 ∨ Word.op w = 0xF) →
    (w.extractLsb' 24 4 ≠ 0 ∨
      (Word.op w ≠ 0x4 ∧ Word.op w ≠ 0x5 ∧ w.extractLsb' 16 8 ≠ 0) ∨
      (Word.op w ≠ 0x1 ∧ Word.op w ≠ 0x4 ∧ w.extractLsb' 0 16 ≠ 0) ∨
      (Word.op w = 0x1 ∧ w.extractLsb' 8 8 ≠ 0)) →
    (∀ r ∈ opcodeMap, r.selects w = false) ∧ decode w = .error .mustBeZero ∧
      issue w s = .next (afterIllegal s)

/-- R88: the opcodes 0x7 to 0xE are reserved and refused. -/
def Obligations.ReservedOpcodesAreRefused : Prop :=
  ∀ (w : Word) (s : State), 0x7 ≤ Word.op w → Word.op w ≤ 0xE →
    decode w = .error .reservedOpcode ∧ issue w s = .next (afterIllegal s)

/-- Words written out from R82 and R92 decode to the commands they stand for, one of each row. -/
def Obligations.SpecWordsDecodeToTheirCommands : Prop :=
  decode 0x00000000#32 = .ok .idle ∧ decode 0x100000F4#32 = .ok (.push 0xF4) ∧
    decode 0x20000000#32 = .ok .flush ∧ decode 0x30000000#32 = .ok .rrst ∧
    decode 0x400303FF#32 = .ok (.wr 0x03 1023) ∧ decode 0x50100000#32 = .ok (.rd 0x10) ∧
    decode 0x60000000#32 = .ok .snap ∧ decode 0xF0000000#32 = .ok .reset

/-! ### Exceptions, ports, the halted condition -/

/-- R191: exactly the words of its list raise IllegalCommand, on either port, halted or not; `CMD_ERR` is set, the
response is (1, 0), nothing else changes. The codes of the responses are the numbers 0 to 3 (30_encoding.md R91). -/
def Obligations.IllegalWordsRaiseIllegalCommandOnly : Prop :=
  (∀ (w : Word) (s : State),
    (IllegalWord s.port w → issue w s = .next (afterIllegal s)) ∧
      (¬ IllegalWord s.port w → ∃ t r, issue w s = .next t ∧ t.resp = some r ∧ r.code ≠ .illegalCommand)) ∧
    ResponseCode.ok.bits = 0 ∧ ResponseCode.illegalCommand.bits = 1 ∧ ResponseCode.lengthFault.bits = 2 ∧
    ResponseCode.halted.bits = 3

/-- R86: on the O-port only IDLE, RD and SNAP are legal, every other command raises IllegalCommand and changes
nothing but `CMD_ERR`. -/
def Obligations.ObserverPortRights : Prop :=
  ∀ s : State, s.port = .o →
    (∀ b, exec (.push b) s = .next (afterIllegal s)) ∧
      exec .flush s = .next (afterIllegal s) ∧ exec .rrst s = .next (afterIllegal s) ∧
      (∀ a v, exec (.wr a v) s = .next (afterIllegal s)) ∧ exec .reset s = .next (afterIllegal s) ∧
      (∃ t r, exec .idle s = .next t ∧ t.resp = some r ∧ r.code = .ok) ∧
      (∀ a, a ≤ 0x10 → ∃ t r, exec (.rd a) s = .next t ∧ t.resp = some r ∧ r.code = .ok) ∧
      (∃ t r, exec .snap s = .next t ∧ t.resp = some r ∧ r.code = .ok)

/-- R193: PUSH, FLUSH, RRST and a legal WR dispatched on a halted block change nothing at all and respond (3, 0). -/
def Obligations.HaltedCommandsChangeNothing : Prop :=
  ∀ s : State, s.port = .c → s.fault ≠ 0 →
    (∀ b, exec (.push b) s = .next (afterHalted s)) ∧ exec .flush s = .next (afterHalted s) ∧
      exec .rrst s = .next (afterHalted s) ∧
      (∀ a v, a = 0x00 ∨ a = 0x02 ∨ a = 0x03 → exec (.wr a v) s = .next (afterHalted s))

/-- R39: `CMD_ERR`, `OVF` and `FAULT` are sticky, only RESET clears them; `FAULT ≠ 0` is the halted condition. -/
def Obligations.StickyBitsStayUntilReset : Prop :=
  ∀ (w : Word) (s t : State), issue w s = .next t →
    (s.halted = true ↔ s.fault ≠ 0) ∧
      (¬ ResetWord s.port w →
        (s.cmdErr = true → t.cmdErr = true) ∧ (s.ovf = true → t.ovf = true) ∧
          (s.fault ≠ 0 → t.fault = s.fault))

/-- R192: a decode of the wrong length raises LengthFault; what the command did before the `raise` (the removal of
the window, `STATE <- LOCKED`) stays, nothing after it happens, `FAULT` is 1, the response is (2, 0), and the
block is halted. No PUSH reaches it: PUSH leaves `FAULT` as it was, in every state. -/
def Obligations.LengthFaultKeepsWhatCameBefore : Prop :=
  (∀ (s : State) (w : List Byte), w.length ≠ frameBytes → s.publish w = .error (.lengthFault w.length)) ∧
    (∀ s : State, s.buf.length < frameBytes → valid s.cfg s.buf = true →
      s.loopBody =
        .raised { s with buf := [], pos := s.pos + frameBytes, sync := .locked } (.lengthFault s.buf.length)) ∧
    (∀ (s : State) (n : Nat),
      s.raise (.lengthFault n) = { s with fault := 1, resp := answer s .lengthFault 0 } ∧
        (s.raise (.lengthFault n)).halted = true) ∧
    (∀ (s t : State) (b : Byte), exec (.push b) s = .next t → t.fault = s.fault)

/-- What one word on the O-port can change: `NEW` (by SNAP), `CMD_ERR` and the response, nothing else
(60_exceptions.md section 6, 10_state.md R20). -/
def Obligations.ObserverPortTouchesOnlyNewAndCmdErr : Prop :=
  ∀ (w : Word) (s t : State), s.port = .o → issue w s = .next t →
    t = { s with new := t.new, cmdErr := t.cmdErr, resp := t.resp } ∧
      (t.new = s.new ∨ (decode w = .ok .snap ∧ t.new = false))

/-! ### IDLE, FLUSH, RRST -/

/-- R112: IDLE responds (OK, 0) on either port, halted or not, and writes no state. -/
def Obligations.IdleWritesNoState : Prop :=
  (∀ s : State, exec .idle s = .next { s with resp := answer s .ok 0 }) ∧
    (∀ w : Word, decode w = .ok .idle ↔ w = 0x00000000#32)

/-- R111: FLUSH empties `BUF`, returns to SEEKING, puts `POS` to 0, records the number of bytes cleared and leaves
everything else alone; halted it is refused, on the O-port it is illegal, and no other word is FLUSH. -/
def Obligations.FlushResetsTheSynchronizerOnly : Prop :=
  (∀ s : State, s.port = .c → s.fault = 0 →
      exec .flush s =
        .next { s with
          buf := []
          pos := 0
          sync := .seeking
          out := s.out ++ [.flushed s.buf.length]
          resp := answer s .ok 0 }) ∧
    (∀ s : State, s.port = .c → s.fault ≠ 0 → exec .flush s = .next (afterHalted s)) ∧
    (∀ s : State, s.port = .o → exec .flush s = .next (afterIllegal s)) ∧
    (∀ w : Word, decode w = .ok .flush ↔ w = 0x20000000#32)

/-- R151: RRST puts the PaletteRange to the default span and leaves everything else alone, `CTRL.PIN` and `DISP` too;
halted it is refused, on the O-port it is illegal, and no other word is RRST. The spec's default span is 0 to 65535. -/
def Obligations.RrstRestoresTheDefaultSpan : Prop :=
  (∀ s : State, s.port = .c → s.fault = 0 →
      exec .rrst s =
        .next { s with
          prMin := s.cfg.defaultMin
          prMax := s.cfg.defaultMax
          resp := answer s .ok 0 }) ∧
    (∀ s : State, s.port = .c → s.fault ≠ 0 → exec .rrst s = .next (afterHalted s)) ∧
    (∀ s : State, s.port = .o → exec .rrst s = .next (afterIllegal s)) ∧
    (∀ w : Word, decode w = .ok .rrst ↔ w = 0x30000000#32) ∧
    Cfg.default.defaultMin = 0 ∧ Cfg.default.defaultMax = 65535

/-! ### WR, RD, SNAP, RESET -/

/-- WR on a running block: `CTRL` takes bits 0 and 1, `PR_MIN` and `PR_MAX` the whole value; nothing else changes,
`DISP` is not mapped again (43_control.md section 2). -/
def Obligations.WrWritesTheOneRegisterNamed : Prop :=
  ∀ (v : Sample) (s : State), s.port = .c → s.fault = 0 →
    exec (.wr 0x00 v) s =
        .next { s with pin := v.getLsbD 0, ie := v.getLsbD 1, resp := answer s .ok 0 } ∧
      exec (.wr 0x02 v) s = .next { s with prMin := v, resp := answer s .ok 0 } ∧
      exec (.wr 0x03 v) s = .next { s with prMax := v, resp := answer s .ok 0 }

/-- RD of any of the 17 registers returns its value and changes nothing, on either port, halted or not; the
registers stand at the addresses 0x00 to 0x10, each at its own (43_control.md section 3, 10_state.md R24). -/
def Obligations.RdReturnsTheRegisterAndChangesNothing : Prop :=
  (∀ (r : Reg) (s : State), exec (.rd r.addr) s = .next { s with resp := answer s .ok (s.readReg r) }) ∧
    (∀ a : RegAddr, a ≤ 0x10 ↔ ∃ r : Reg, r.addr = a) ∧
    Reg.ctrl.addr = 0x00 ∧ Reg.status.addr = 0x01 ∧ Reg.prMin.addr = 0x02 ∧ Reg.prMax.addr = 0x03 ∧
    Reg.len.addr = 0x04 ∧ Reg.frameCnt.addr = 0x05 ∧ Reg.discardCnt.addr = 0x06 ∧ Reg.resyncCnt.addr = 0x07 ∧
    Reg.cfg0.addr = 0x08 ∧ Reg.saneMin.addr = 0x09 ∧ Reg.saneMax.addr = 0x0A ∧ Reg.markOff.addr = 0x0B ∧
    Reg.markLo.addr = 0x0C ∧ Reg.markHi.addr = 0x0D ∧ Reg.cap.addr = 0x0E ∧ Reg.defMin.addr = 0x0F ∧
    Reg.defMax.addr = 0x10

/-- R175: the values RD returns for `CTRL`, `STATUS` and `CFG0`, field by field; all higher bits are 0. `STATE` is 0
in SEEKING, 1 in LOCKED, 2 in RESYNCING (10_state.md R22), `BYTE_ORDER` 0 little-endian, 1 big-endian (00_scope.md
R8). -/
def Obligations.ComposedRegistersReadTheirFields : Prop :=
  (∀ s : State,
    (s.readReg .ctrl).toNat = s.pin.toNat + 2 * s.ie.toNat ∧
      (s.readReg .status).toNat =
        s.sync.bits.toNat + 4 * s.dispValid.toNat + 8 * s.new.toNat + 16 * s.cmdErr.toNat +
          32 * s.ovf.toNat + 64 * s.fault.toNat ∧
      (1 ≤ s.cfg.markLen.toNat → s.cfg.markLen.toNat ≤ 4 →
        (s.readReg .cfg0).toNat =
          (byteOrderBit s.cfg.byteOrder).toNat + 2 * s.cfg.rangeEn.toNat + 4 * s.cfg.markEn.toNat +
            8 * (s.cfg.markLen.toNat - 1))) ∧
    SyncState.seeking.bits = 0 ∧ SyncState.locked.bits = 1 ∧ SyncState.resyncing.bits = 2 ∧
    byteOrderBit .little = 0 ∧ byteOrderBit .big = 1

/-- The plain registers read zero-extended: the range, `LEN`, the counters, the mirrors of the configuration
(10_state.md R27 to R31, R33 to R35). `LEN` is `len(BUF)` wherever `BUF` is within any capacity. -/
def Obligations.PlainRegistersReadZeroExtended : Prop :=
  ∀ s : State,
    (s.readReg .prMin).toNat = s.prMin.toNat ∧ (s.readReg .prMax).toNat = s.prMax.toNat ∧
      (s.buf.length ≤ 65535 → (s.readReg .len).toNat = s.buf.length) ∧
      s.readReg .frameCnt = s.frameCnt ∧ s.readReg .discardCnt = s.discardCnt ∧
      s.readReg .resyncCnt = s.resyncCnt ∧
      (s.readReg .saneMin).toNat = s.cfg.saneMin.toNat ∧ (s.readReg .saneMax).toNat = s.cfg.saneMax.toNat ∧
      (s.readReg .markOff).toNat = s.cfg.markOff.toNat ∧
      (s.readReg .markLo).toNat = (s.cfg.mark[0]).toNat + 256 * (s.cfg.mark[1]).toNat ∧
      (s.readReg .markHi).toNat = (s.cfg.mark[2]).toNat + 256 * (s.cfg.mark[3]).toNat ∧
      (s.readReg .cap).toNat = s.cap.toNat ∧ (s.readReg .defMin).toNat = s.cfg.defaultMin.toNat ∧
      (s.readReg .defMax).toNat = s.cfg.defaultMax.toNat

/-- R176: SNAP returns all of `DISP` and `{NEW, DISP_VALID}` as they were, clears `NEW` and writes nothing else, on
either port, halted or not; no other word is SNAP. -/
def Obligations.SnapReturnsTheSlotAndClearsNew : Prop :=
  (∀ s : State, ∃ d : Word, d.toNat = s.dispValid.toNat + 2 * s.new.toNat ∧
      exec .snap s =
        .next { s with
          new := false
          resp := some { port := s.port, code := .ok, data := d, frame := some s.disp } }) ∧
    (∀ w : Word, decode w = .ok .snap ↔ w = 0x60000000#32)

/-- R210: RESET on the C-port, halted or not, puts every state element to its reset value and latches the
configuration inputs again; `DISP` has some 1024 pixels, the rule leaves them unspecified (free values, logs 3 and 15).
Of the inputs of the block, which are no state of it, this says nothing. On the O-port nothing is reset, and no other
word is RESET. -/
def Obligations.ResetPutsEverythingToItsResetValue : Prop :=
  (∀ s : State, s.port = .c →
      ∃ (pixels : List Pixel) (n : Nat) (asserted : Bool) (cs os : List Word), pixels.length = nSamples ∧
        exec .reset s =
          .next
            { buf := [], sync := .seeking, pos := 0, pin := false, ie := false
              prMin := (s.newConfig.getD (s.cfg, s.cap)).1.defaultMin
              prMax := (s.newConfig.getD (s.cfg, s.cap)).1.defaultMax
              frameCnt := 0, discardCnt := 0, resyncCnt := 0
              dispValid := false, new := false, cmdErr := false, ovf := false, fault := 0
              disp := pixels, out := []
              cfg := (s.newConfig.getD (s.cfg, s.cap)).1
              cap := (s.newConfig.getD (s.cfg, s.cap)).2
              newConfig := none, resetIn := asserted, cPort := cs, oPort := os
              resp := answer s .ok 0, port := s.port, draws := n }) ∧
    (∀ s : State, s.port = .o → exec .reset s = .next (afterIllegal s)) ∧
    (∀ w : Word, decode w = .ok .reset ↔ w = 0xF0000000#32)

/-- The model's choice (log 17): the RESET command leaves the words waiting on the ports, and the reset input, as they
are, and draws one new frame of free pixels (logs 3, 15). -/
def Obligations.ResetCommandLeavesTheInputs : Prop :=
  ∀ s t : State, s.port = .c → exec .reset s = .next t →
    t.cPort = s.cPort ∧ t.oPort = s.oPort ∧ t.resetIn = s.resetIn ∧ t.disp = Config.freeFrame s.draws ∧
      t.draws = s.draws + 1

/-- R47: `irq = STATUS.NEW and CTRL.IE`, a function of the state. -/
def Obligations.IrqIsNewAndIe : Prop :=
  ∀ s : State, s.irq = true ↔ s.new = true ∧ s.ie = true

/-! ### The registers' writers -/

/-- `STATE` is written by PUSH, FLUSH and RESET only, and no command leaves it in `RESYNCING` that did not find it
there (10_state.md R22). -/
def Obligations.StateIsWrittenByPushFlushAndResetOnly : Prop :=
  ∀ (i : Instr) (s t : State), exec i s = .next t →
    (t.sync ≠ s.sync → (∃ b, i = .push b) ∨ i = .flush ∨ i = .reset) ∧
      (s.sync ≠ .resyncing → t.sync ≠ .resyncing)

/-- The PaletteRange is written by RESET, RRST, WR of its two registers, and by PUSH in AUTO mode only
(10_state.md R27). -/
def Obligations.PaletteRangeWriters : Prop :=
  ∀ (i : Instr) (s t : State), exec i s = .next t → (t.prMin ≠ s.prMin ∨ t.prMax ≠ s.prMax) →
    i = .reset ∨ i = .rrst ∨ (∃ v, i = .wr 0x02 v ∨ i = .wr 0x03 v) ∨ (s.pin = false ∧ ∃ b, i = .push b)

/-- `DISP` is written by a publish and by RESET only; where another `DISP` is there after a PUSH, `DISP_VALID` and
`NEW` are set (10_state.md R36, 42_colour_mapper.md R150). -/
def Obligations.DispIsWrittenByPublishAndResetOnly : Prop :=
  ∀ (i : Instr) (s t : State), exec i s = .next t → t.disp ≠ s.disp →
    i = .reset ∨ (∃ b, i = .push b ∧ t.dispValid = true ∧ t.new = true ∧
      ∃ w f lo hi, .frame w f lo hi t.disp ∈ t.out)

/-- The latched `Cfg` and `CAP` change only at RESET (00_scope.md R8, 70_reset_and_hazards.md R212). -/
def Obligations.ConfigurationIsConstantBetweenResets : Prop :=
  ∀ (w : Word) (s t : State), issue w s = .next t →
    ResetWord s.port w ∨ (t.cfg = s.cfg ∧ t.cap = s.cap ∧ t.newConfig = s.newConfig)

/-! ### The sample decoder and the validation predicate -/

/-- R131: `decode` of `FRAME_BYTES` bytes makes 1024 samples, sample `i` of window bytes `2i` and `2i+1` in the
configured byte order; of any other length it raises LengthFault. -/
def Obligations.DecodePairsBytesInTheConfiguredOrder : Prop :=
  ∀ (c : Cfg) (w : List Byte),
    (w.length = frameBytes → ∃ t, decodeFrame c w = .ok t ∧ t.length = nSamples ∧
      ∀ (i : Nat) (x : Sample) (a b : Byte), t[i]? = some x → w[2 * i]? = some a → w[2 * i + 1]? = some b →
        (c.byteOrder = .little → x.toNat = a.toNat + 256 * b.toNat) ∧
          (c.byteOrder = .big → x.toNat = 256 * a.toNat + b.toNat)) ∧
    (w.length ≠ frameBytes → decodeFrame c w = .error (.lengthFault w.length))

/-- `decode` is injective for a fixed byte order, and the two byte orders are related by exchanging the bytes of every
pair (41_sample_decoder.md, the consequences the spec derives). -/
def Obligations.DecodeIsInjectiveAndOrdersDifferBySwapping : Prop :=
  (∀ (c : Cfg) (v w : List Byte), v.length = frameBytes → w.length = frameBytes →
      decodeFrame c v = decodeFrame c w → v = w) ∧
    (∀ (c : Cfg) (w : List Byte), w.length = frameBytes →
      decodeFrame { c with byteOrder := .big } w = decodeFrame { c with byteOrder := .little } (swapPairs w))

/-- R102: the range-sanity check holds of a window exactly when every sample of it is within the thresholds. -/
def Obligations.RangeCheckIsPerSample : Prop :=
  ∀ (c : Cfg) (w : List Byte), w.length = frameBytes →
    (rangeOk c w = true ↔
      ∀ i < nSamples, c.saneMin.toNat ≤ (sampleAt c.byteOrder w i).toNat ∧
        (sampleAt c.byteOrder w i).toNat ≤ c.saneMax.toNat)

/-- R103: the marker check holds of a window exactly when the bytes at `MARK_OFF` are the `MARK_LEN` bytes of the
marker. -/
def Obligations.MarkerCheckComparesTheMarkerBytes : Prop :=
  ∀ (c : Cfg) (w : List Byte), c.wf = true → w.length = frameBytes →
    (markOk c w = true ↔
      (w.drop c.markOff.toNat).take c.markLen.toNat = c.mark.toList.take c.markLen.toNat)

/-- R101: `VALID` is the conjunction of the enabled checks; R104: what it is under each of the four strategies. -/
def Obligations.ValidIsTheConjunctionOfTheEnabledChecks : Prop :=
  ∀ (c : Cfg) (w : List Byte), w.length = frameBytes →
    (valid c w = true ↔ (c.rangeEn = true → rangeOk c w = true) ∧ (c.markEn = true → markOk c w = true)) ∧
      (c.rangeEn = false → c.markEn = false → valid c w = true) ∧
      (c.rangeEn = true → c.markEn = false → valid c w = rangeOk c w) ∧
      (c.rangeEn = false → c.markEn = true → valid c w = markOk c w) ∧
      (c.rangeEn = true → c.markEn = true → valid c w = (rangeOk c w && markOk c w))

/-- With `SANE_MIN > SANE_MAX` and the range check enabled no window is ever valid and no command locks the block
(00_scope.md R9). -/
def Obligations.EmptySaneRangeNeverLocks : Prop :=
  ∀ (i : Instr) (s t : State), s.cfg.rangeEn = true → s.cfg.saneMax < s.cfg.saneMin → s.sync ≠ .locked →
    exec i s = .next t →
    t.sync ≠ .locked ∧ ∀ w : List Byte, w.length = frameBytes → valid s.cfg w = false

/-! ### The colour mapper -/

/-- R144: `map_sample`, on all samples and ranges. R142: the frame mapping is element-wise, pixel `i` sits where sample
`i` sits, and there is a pixel where and only where there is a sample. -/
def Obligations.MapSampleIsTheSpecFormula : Prop :=
  (∀ (c : Cfg) (x lo hi : Sample),
    (hi.toNat ≤ lo.toNat → mapSample c x lo hi = c.palette[0]) ∧
      (lo.toNat < hi.toNat → ∃ h : (min (max x.toNat lo.toNat) hi.toNat - lo.toNat) * 255 /
          (hi.toNat - lo.toNat) < lutSize,
        mapSample c x lo hi =
          c.palette[(min (max x.toNat lo.toNat) hi.toNat - lo.toNat) * 255 / (hi.toNat - lo.toNat)])) ∧
    (∀ (c : Cfg) (t : List Sample) (lo hi : Sample) (i : Nat),
      (mapFrame c t lo hi)[i]? = (t[i]?).map (fun x => mapSample c x lo hi))

/-- R145: the ranges of the fixed-point normalisation; the table index never leaves the table. -/
def Obligations.TableIndexStaysInTheTable : Prop :=
  ∀ x lo hi : Sample, lo < hi →
    lo.toNat ≤ clampSample x lo hi ∧ clampSample x lo hi - lo.toNat ≤ hi.toNat - lo.toNat ∧
      hi.toNat - lo.toNat ≤ 65535 ∧ (clampSample x lo hi - lo.toNat) * 255 ≤ 16711425 ∧
      1 ≤ hi.toNat - lo.toNat ∧
      tableIndex x lo hi = ((clampSample x lo hi - lo.toNat) * 255) / (hi.toNat - lo.toNat) ∧
      tableIndex x lo hi ≤ 255

/-- R143: a sample at or below `lo` maps to `LUT[0]`, one at or above `hi` to `LUT[255]`; in AUTO mode no sample of
the frame is clamped. -/
def Obligations.ClampedSamplesTakeTheEndColours : Prop :=
  (∀ (c : Cfg) (x lo hi : Sample), lo < hi →
      (x ≤ lo → mapSample c x lo hi = c.palette[0]) ∧ (hi ≤ x → mapSample c x lo hi = c.palette[255])) ∧
    (∀ (t : List Sample) (x : Sample), x ∈ t → clampSample x (frameMin t) (frameMax t) = x.toNat)

/-- The table index is monotone in the sample (42_colour_mapper.md, the consequence the spec derives). -/
def Obligations.TableIndexIsMonotone : Prop :=
  ∀ x y lo hi : Sample, lo < hi → x ≤ y → tableIndex x lo hi ≤ tableIndex y lo hi

/-- The range policy (42_colour_mapper.md R141): pinned, the range is left alone; in AUTO it becomes the smallest and
the largest sample of the frame, whatever it was; nothing else changes. -/
def Obligations.RangePolicyIsPinnedOrTheFramesOwn : Prop :=
  ∀ (s : State) (t : List Sample), t ≠ [] →
    (s.pin = true → s.updateRange t = s) ∧
      (s.pin = false → ∃ lo hi, s.updateRange t = { s with prMin := lo, prMax := hi } ∧
        lo ∈ t ∧ hi ∈ t ∧ ∀ x ∈ t, lo ≤ x ∧ x ≤ hi)

/-- In AUTO mode a uniform frame is all `LUT[0]`; any other frame has a pixel `LUT[0]` and a pixel `LUT[255]`
(42_colour_mapper.md, the corner cases the spec derives). -/
def Obligations.AutoRangeReachesBothEnds : Prop :=
  ∀ (c : Cfg) (t : List Sample), t ≠ [] →
    ((∀ x ∈ t, ∀ y ∈ t, x = y) → ∀ p ∈ mapFrame c t (frameMin t) (frameMax t), p = c.palette[0]) ∧
      ((∃ x ∈ t, ∃ y ∈ t, x ≠ y) →
        frameMin t < frameMax t ∧ c.palette[0] ∈ mapFrame c t (frameMin t) (frameMax t) ∧
          c.palette[255] ∈ mapFrame c t (frameMin t) (frameMax t))

/-! ### PUSH -/

/-- PUSH with fewer than `FRAME_BYTES` bytes after the append: the byte is appended, the response is (OK, 0), nothing
else changes (40_synchronizer.md section 3). -/
def Obligations.PushBelowAFrameAppends : Prop :=
  ∀ (s : State) (b : Byte), s.port = .c → s.fault = 0 → capOk s.cap = true →
    s.buf.length + 1 < frameBytes →
    exec (.push b) s = .next { s with buf := s.buf ++ [b], resp := answer s .ok 0 }

/-- PUSH that completes a valid window: it is extracted and the block locks, the range is updated by the policy, the
frame is mapped against that range and published, all in the one command; the response is (OK, 1); nothing else
changes (40_synchronizer.md section 3, 42_colour_mapper.md sections 1 and 4). -/
def Obligations.PushOfAValidWindowPublishes : Prop :=
  ∀ (s : State) (b : Byte) (t : List Sample) (lo hi : Sample), s.port = .c → s.fault = 0 →
    capOk s.cap = true → s.buf.length + 1 = frameBytes → valid s.cfg (s.buf ++ [b]) = true →
    decodeFrame s.cfg (s.buf ++ [b]) = .ok t →
    lo = (if s.pin then s.prMin else frameMin t) → hi = (if s.pin then s.prMax else frameMax t) →
    exec (.push b) s =
      .next { s with
        buf := []
        pos := s.pos + frameBytes
        sync := .locked
        prMin := lo
        prMax := hi
        disp := mapFrame s.cfg t lo hi
        dispValid := true
        new := true
        frameCnt := s.frameCnt + 1
        out := s.out ++ [.frame (s.buf ++ [b]) t lo hi (mapFrame s.cfg t lo hi)]
        resp := answer s .ok 1 }

/-- PUSH that completes a window which fails: the oldest byte is discarded, the block seeks again, and a resync cycle
is counted if it was locked; the response is (OK, 0); nothing else changes (40_synchronizer.md sections 3, 4). -/
def Obligations.PushOfAFailingWindowDiscardsOneByte : Prop :=
  ∀ (s : State) (b first : Byte) (rest : List Byte), s.port = .c → s.fault = 0 → capOk s.cap = true →
    s.buf.length + 1 = frameBytes → valid s.cfg (s.buf ++ [b]) = false → s.buf ++ [b] = first :: rest →
    exec (.push b) s =
      .next { s with
        buf := rest
        pos := s.pos + 1
        sync := .seeking
        resyncCnt := if s.sync = .locked then s.resyncCnt + 1 else s.resyncCnt
        discardCnt := s.discardCnt + 1
        out := s.out ++ [.discard first]
        resp := answer s .ok 0 }

/-- R106: with `len(BUF) = CAP` the oldest byte is removed first, counted, recorded and `OVF` is set, and PUSH goes on
as from that state; the append leaves `STATE` alone and at most `CAP` bytes; the default `CAP` is 4096. That no run
from RESET drops is `OVF = 0` of the synchronizer invariant. -/
def Obligations.PushAtTheCapDropsTheOldestByte : Prop :=
  (∀ (s : State) (b first : Byte) (rest : List Byte), s.port = .c → s.fault = 0 →
      s.buf = first :: rest → s.buf.length = s.cap.toNat →
      exec (.push b) s =
        exec (.push b)
          { s with
            buf := rest
            pos := s.pos + 1
            discardCnt := s.discardCnt + 1
            ovf := true
            out := s.out ++ [.discard first] }) ∧
    (∀ (s : State) (b : Byte), capOk s.cap = true → s.buf.length ≤ s.cap.toNat →
      (s.acceptByte b).buf.length ≤ s.cap.toNat ∧ (s.acceptByte b).sync = s.sync) ∧ State.reset.cap = 4096

/-- R107: a pass of the loop looks at the window at index 0 and removes a frame or one byte; the offsets examined
strictly increase and lie before the final `POS`; the loop ends with fewer than `FRAME_BYTES` bytes; a PUSH that
finds `L < CAP` bytes evaluates `VALID` at most `max(0, L + 2 - FRAME_BYTES)` times, from RESET at most once. -/
def Obligations.ExtractionLoopMakesForwardProgress : Prop :=
  (∀ (s s' : State) (k : Nat), frameBytes ≤ s.buf.length → s.loopBody = .ended s' k →
      (valid s.cfg (s.buf.take frameBytes) = true ∧ s'.buf = s.buf.drop frameBytes ∧ s'.pos = s.pos + frameBytes) ∨
        (valid s.cfg (s.buf.take frameBytes) = false ∧ s'.buf = s.buf.drop 1 ∧ s'.pos = s.pos + 1)) ∧
    (∀ (s t : State) (b : Byte), s.port = .c → s.fault = 0 → exec (.push b) s = .next t →
      t.buf.length < frameBytes ∧ (pushExamines s b).Pairwise (· < ·) ∧
        ∀ p ∈ pushExamines s b, s.pos ≤ p ∧ p < t.pos) ∧
    (∀ (s : State) (b : Byte), s.buf.length < s.cap.toNat →
      (pushExamines s b).length ≤ s.buf.length + 2 - frameBytes) ∧
    (∀ (s : State) (b : Byte), capOk s.cap = true → SyncInv s → (pushExamines s b).length ≤ 1)

/-- PUSH completes from every running state, whatever `BUF` holds, and says how many frames it published
(70_reset_and_hazards.md R223, 30_encoding.md R91): each is a Frame event (10_state.md R46) and one more in `FRAME_CNT`
(R29), and fewer than `FRAME_BYTES` bytes stay (40_synchronizer.md R107). That the response holds the count mod 2^32
is the model's choice (log 19). -/
def Obligations.PushCompletesAndCountsItsFrames : Prop :=
  ∀ (s : State) (b : Byte), s.port = .c → s.fault = 0 →
    ∃ t n, exec (.push b) s = .next t ∧ t.buf.length < frameBytes ∧
      t.resp = answer s .ok (BitVec.ofNat 32 n) ∧ frameCount t.out = frameCount s.out + n ∧
      t.frameCnt = s.frameCnt + BitVec.ofNat 32 n

/-- No byte is lost, repeated or reordered by framing: the bytes that left `BUF` since the last FLUSH followed by those
in it are, after a PUSH, what they were and the new byte (40_synchronizer.md R108, R109, from the model's trace). -/
def Obligations.PushConservesTheStream : Prop :=
  ∀ (s t : State) (b : Byte), s.port = .c → s.fault = 0 → exec (.push b) s = .next t →
    spanStream t = spanStream s ++ [b]

/-- What PUSH leaves alone in every state: the control bits, the configuration, the inputs; and, when it extracts no
frame, the PaletteRange, the latest-frame slot, its flags and its count (40_synchronizer.md section 3). -/
def Obligations.PushFrameOfControlAndOutput : Prop :=
  ∀ (s t : State) (b : Byte), s.port = .c → s.fault = 0 → exec (.push b) s = .next t →
    SameControl s t ∧ (frameCount t.out = frameCount s.out → SameOutput s t) ∧
      (s.pin = true → t.prMin = s.prMin ∧ t.prMax = s.prMax)

/-! ### Invariants -/

/-- Items 1 to 4 of 10_state.md section 9 are kept by every step. -/
def Obligations.StepKeepsTheSynchronizerInvariant : Prop :=
  ∀ s t : State, SyncInv s → step s = .next t → SyncInv t

/-- Item 5 of 10_state.md section 9 is kept by every step: the slot shows the last published frame. -/
def Obligations.StepKeepsTheSlotInvariant : Prop :=
  ∀ s t : State, SlotInv s → step s = .next t → SlotInv t

/-- The counters and `POS` agree with the observation trace after every step (10_state.md R23, R29, R30, R46). -/
def Obligations.StepKeepsTheTraceAccounting : Prop :=
  ∀ s t : State, TraceInv s → step s = .next t → TraceInv t

/-- The form of the memories is kept by every step: `DISP` has its 1024 pixels, `BUF` holds at most `CAP` bytes
(20_memory.md section 1). -/
def Obligations.StepKeepsTheMemoryForm : Prop :=
  ∀ s t : State, Memory.wf s = true → step s = .next t → Memory.wf t = true

/-- The state right after reset has the reset values of 10_state.md R44 and meets every invariant, under a
configuration of this hardware. The configuration itself is the model's choice where the spec gives no default
(log 2). -/
def Obligations.ResetMeetsTheInvariants : Prop :=
  (State.reset.buf = [] ∧ State.reset.sync = .seeking ∧ State.reset.pos = 0 ∧ State.reset.pin = false ∧
      State.reset.ie = false ∧ State.reset.prMin = State.reset.cfg.defaultMin ∧
      State.reset.prMax = State.reset.cfg.defaultMax ∧ State.reset.frameCnt = 0 ∧ State.reset.discardCnt = 0 ∧
      State.reset.resyncCnt = 0 ∧ State.reset.dispValid = false ∧ State.reset.new = false ∧
      State.reset.cmdErr = false ∧ State.reset.ovf = false ∧ State.reset.fault = 0 ∧ State.reset.out = [] ∧
      State.reset.irq = false) ∧
    SyncInv State.reset ∧ SlotInv State.reset ∧ TraceInv State.reset ∧ Memory.wf State.reset = true ∧
    configOk State.reset.cfg State.reset.cap = true

/-- A SNAP returns the pixels of the last publish, whole (20_memory.md R71). -/
def Obligations.SnapReturnsTheLastPublishedFrame : Prop :=
  ∀ (s : State) (p : List Pixel), SlotInv s → lastFrame s.out = some p →
    ∃ t r, exec .snap s = .next t ∧ t.resp = some r ∧ r.frame = some p ∧ t.disp = p

/-! ### The step -/

/-- A step runs the decoded command: with the reset input released and the configuration as latched, the first word
waiting on the only port where one waits is taken and issued on that port: the command it decodes to is executed, and
a word that decodes to none raises IllegalCommand. RESET on the C-port is executed also where the configuration inputs
were changed. -/
def Obligations.StepRunsTheDecodedCommand : Prop :=
  (∀ (s : State) (w : Word) (ws : List Word), s.resetIn = false → configOk s.cfg s.cap = true →
    (s.newConfig = none → s.cPort = w :: ws → s.oPort = [] →
        step s = issue w { s with cPort := ws, port := .c }) ∧
      (s.newConfig = none → s.cPort = [] → s.oPort = w :: ws →
        step s = issue w { s with oPort := ws, port := .o }) ∧
      (w = encode .reset → s.cPort = w :: ws → s.oPort = [] →
        step s = exec .reset { s with cPort := ws, port := .c })) ∧
    (∀ (w : Word) (i : Instr) (s : State), decode w = .ok i → issue w s = exec i s) ∧
    (∀ (w : Word) (e : DecodeError) (s : State), decode w = .error e → issue w s = .next (afterIllegal s))

/-- With a word waiting on each port, the step issues the first word of one of them on its port and leaves the other
waiting. Which one the block does not determine (20_memory.md R69, 60_exceptions.md R197): the free value
`Config.arbiter` of log 5 chooses, of which nothing is known. -/
def Obligations.WaitingPortsGoInTheOrderOfTheArbiter : Prop :=
  ∀ (s : State) (w v : Word) (ws vs : List Word), s.resetIn = false → configOk s.cfg s.cap = true →
    s.newConfig = none → s.cPort = w :: ws → s.oPort = v :: vs →
    step s =
      if Config.arbiter s.draws = .c then issue w { s with cPort := ws, port := .c, draws := s.draws + 1 }
      else issue v { s with oPort := vs, port := .o, draws := s.draws + 1 }

/-- The reset input overrides everything: the waiting words of both ports are dropped, everything takes its reset
value, there is no response (60_exceptions.md R197, 70_reset_and_hazards.md R211). That the input is then released is
the model's choice (log 7). -/
def Obligations.ResetInputOverridesEverything : Prop :=
  ∀ s : State, s.resetIn = true →
    ∃ t u, step s = .next t ∧ exec .reset { s with port := .c } = .next u ∧
      t = { u with cPort := [], oPort := [], resetIn := false, resp := none, port := s.port }

/-- Where a step is no command: nothing waits and the block does not act (10_state.md R20; log 8); an ill-formed
configuration is refused (00_scope.md R9; log 9); the configuration inputs were changed without a reset and there is
no step but RESET on the C-port (70_reset_and_hazards.md R216; log 10), for a word on one port or on both, the order
of two waiting words as ever that of the free arbiter (log 5). -/
def Obligations.StepWithoutACommandWaitsOrStops : Prop :=
  (∀ s : State, s.resetIn = false → configOk s.cfg s.cap = true → s.cPort = [] → s.oPort = [] →
      step s = .next s) ∧
    (∀ s : State, s.resetIn = false → configOk s.cfg s.cap = false → step s = .refused .illFormedConfig) ∧
    (∀ s : State, s.resetIn = false → configOk s.cfg s.cap = true → s.newConfig ≠ none →
      (∀ (w : Word) (ws : List Word), s.cPort = w :: ws → s.oPort = [] → w ≠ encode .reset →
          step s = .fault .configInputsChanged) ∧
        (∀ (v : Word) (vs : List Word), s.cPort = [] → s.oPort = v :: vs → step s = .fault .configInputsChanged) ∧
        (∀ (w v : Word) (ws vs : List Word), s.cPort = w :: ws → s.oPort = v :: vs →
          step s =
            if Config.arbiter s.draws = .c ∧ w = encode .reset then
              exec .reset { s with cPort := ws, port := .c, draws := s.draws + 1 }
            else .fault .configInputsChanged))

/-! ### Runs -/

/-- Chunking invariance (40_synchronizer.md R115, the consequence the spec derives): IDLE, RD and SNAP interleaved with
any commands of both ports change nothing but `NEW`, `CMD_ERR` and responses. -/
def Obligations.ObservingNeverDisturbsTheStream : Prop :=
  ∀ (cs : List (Port × Word)) (s : State),
    ∃ t u, runCommands cs s = .next t ∧
      runCommands (cs.filter (fun c => !observes c.2)) s = .next u ∧ SameButObserving u t

/-- WR and RRST interleaved with the stream never change the RawFrames and ThermalFrames extracted, nor the
synchronizer (40_synchronizer.md R115, the consequence the spec derives). -/
def Obligations.RangeControlNeverChangesExtraction : Prop :=
  ∀ (cs : List (Port × Word)) (s : State),
    ∃ t u, runCommands cs s = .next t ∧
      runCommands (cs.filter (fun c => !controlsRange c.2)) s = .next u ∧ SameStream u t

/-- Recovery after corruption (40_synchronizer.md R117, the consequence the spec derives): locked with `BUF` empty, when
the next window fails and the window one frame later is valid, the block is locked again after at most `FRAME_BYTES`
further bytes, at the first window that is valid; one resync cycle is counted, the bytes before that window are
discarded, that one frame is published, and it is exactly one frame size later if no window before it is valid. -/
def Obligations.OneResyncCycleRecoversWithinAFrame : Prop :=
  ∀ (s : State) (xs : List Byte), s.port = .c → s.fault = 0 → capOk s.cap = true → s.buf = [] →
    s.sync = .locked → xs.length = 2 * frameBytes → valid s.cfg (windowAt xs 0) = false →
    valid s.cfg (windowAt xs frameBytes) = true →
    ∃ (m : Nat) (t : State), 1 ≤ m ∧ m ≤ frameBytes ∧ valid s.cfg (windowAt xs m) = true ∧
      (∀ j, 1 ≤ j → j < m → valid s.cfg (windowAt xs j) = false) ∧
      runInstrs (pushAll (xs.take (frameBytes + m))) s = .next t ∧ t.sync = .locked ∧ t.buf = [] ∧
      t.pos = s.pos + m + frameBytes ∧ t.resyncCnt = s.resyncCnt + 1 ∧
      t.discardCnt = s.discardCnt + BitVec.ofNat 32 m ∧ t.frameCnt = s.frameCnt + 1 ∧
      extracted t.out = extracted s.out ++ [(windowAt xs m, samples s.cfg.byteOrder (windowAt xs m))]
end

