-- ==== Sys2Proof/Laws/State.lean ====
section
/-! SUPPORT. What each update of the state does to each field, so that no later proof unfolds a record update. -/

namespace Sys2Proof.Machine

open Sys2Proof

/-! ### respondWith -/

@[simp] theorem State.respondWith_buf (s : State) (c : ResponseCode) (d : Word) (f : Option (List Pixel)) :
    (s.respondWith c d f).buf = s.buf := rfl
@[simp] theorem State.respondWith_sync (s : State) (c : ResponseCode) (d : Word) (f : Option (List Pixel)) :
    (s.respondWith c d f).sync = s.sync := rfl
@[simp] theorem State.respondWith_pos (s : State) (c : ResponseCode) (d : Word) (f : Option (List Pixel)) :
    (s.respondWith c d f).pos = s.pos := rfl
@[simp] theorem State.respondWith_pin (s : State) (c : ResponseCode) (d : Word) (f : Option (List Pixel)) :
    (s.respondWith c d f).pin = s.pin := rfl
@[simp] theorem State.respondWith_ie (s : State) (c : ResponseCode) (d : Word) (f : Option (List Pixel)) :
    (s.respondWith c d f).ie = s.ie := rfl
@[simp] theorem State.respondWith_prMin (s : State) (c : ResponseCode) (d : Word) (f : Option (List Pixel)) :
    (s.respondWith c d f).prMin = s.prMin := rfl
@[simp] theorem State.respondWith_prMax (s : State) (c : ResponseCode) (d : Word) (f : Option (List Pixel)) :
    (s.respondWith c d f).prMax = s.prMax := rfl
@[simp] theorem State.respondWith_frameCnt (s : State) (c : ResponseCode) (d : Word) (f : Option (List Pixel)) :
    (s.respondWith c d f).frameCnt = s.frameCnt := rfl
@[simp] theorem State.respondWith_discardCnt (s : State) (c : ResponseCode) (d : Word) (f : Option (List Pixel)) :
    (s.respondWith c d f).discardCnt = s.discardCnt := rfl
@[simp] theorem State.respondWith_resyncCnt (s : State) (c : ResponseCode) (d : Word) (f : Option (List Pixel)) :
    (s.respondWith c d f).resyncCnt = s.resyncCnt := rfl
@[simp] theorem State.respondWith_dispValid (s : State) (c : ResponseCode) (d : Word) (f : Option (List Pixel)) :
    (s.respondWith c d f).dispValid = s.dispValid := rfl
@[simp] theorem State.respondWith_new (s : State) (c : ResponseCode) (d : Word) (f : Option (List Pixel)) :
    (s.respondWith c d f).new = s.new := rfl
@[simp] theorem State.respondWith_cmdErr (s : State) (c : ResponseCode) (d : Word) (f : Option (List Pixel)) :
    (s.respondWith c d f).cmdErr = s.cmdErr := rfl
@[simp] theorem State.respondWith_ovf (s : State) (c : ResponseCode) (d : Word) (f : Option (List Pixel)) :
    (s.respondWith c d f).ovf = s.ovf := rfl
@[simp] theorem State.respondWith_fault (s : State) (c : ResponseCode) (d : Word) (f : Option (List Pixel)) :
    (s.respondWith c d f).fault = s.fault := rfl
@[simp] theorem State.respondWith_disp (s : State) (c : ResponseCode) (d : Word) (f : Option (List Pixel)) :
    (s.respondWith c d f).disp = s.disp := rfl
@[simp] theorem State.respondWith_out (s : State) (c : ResponseCode) (d : Word) (f : Option (List Pixel)) :
    (s.respondWith c d f).out = s.out := rfl
@[simp] theorem State.respondWith_cfg (s : State) (c : ResponseCode) (d : Word) (f : Option (List Pixel)) :
    (s.respondWith c d f).cfg = s.cfg := rfl
@[simp] theorem State.respondWith_cap (s : State) (c : ResponseCode) (d : Word) (f : Option (List Pixel)) :
    (s.respondWith c d f).cap = s.cap := rfl
@[simp] theorem State.respondWith_newConfig (s : State) (c : ResponseCode) (d : Word) (f : Option (List Pixel)) :
    (s.respondWith c d f).newConfig = s.newConfig := rfl
@[simp] theorem State.respondWith_resetIn (s : State) (c : ResponseCode) (d : Word) (f : Option (List Pixel)) :
    (s.respondWith c d f).resetIn = s.resetIn := rfl
@[simp] theorem State.respondWith_cPort (s : State) (c : ResponseCode) (d : Word) (f : Option (List Pixel)) :
    (s.respondWith c d f).cPort = s.cPort := rfl
@[simp] theorem State.respondWith_oPort (s : State) (c : ResponseCode) (d : Word) (f : Option (List Pixel)) :
    (s.respondWith c d f).oPort = s.oPort := rfl
@[simp] theorem State.respondWith_resp (s : State) (c : ResponseCode) (d : Word) (f : Option (List Pixel)) :
    (s.respondWith c d f).resp = some { port := s.port, code := c, data := d, frame := f } := rfl
@[simp] theorem State.respondWith_port (s : State) (c : ResponseCode) (d : Word) (f : Option (List Pixel)) :
    (s.respondWith c d f).port = s.port := rfl
@[simp] theorem State.respondWith_draws (s : State) (c : ResponseCode) (d : Word) (f : Option (List Pixel)) :
    (s.respondWith c d f).draws = s.draws := rfl

/-! ### respond -/

@[simp] theorem State.respond_buf (s : State) (d : Word) : (s.respond d).buf = s.buf := rfl
@[simp] theorem State.respond_sync (s : State) (d : Word) : (s.respond d).sync = s.sync := rfl
@[simp] theorem State.respond_pos (s : State) (d : Word) : (s.respond d).pos = s.pos := rfl
@[simp] theorem State.respond_pin (s : State) (d : Word) : (s.respond d).pin = s.pin := rfl
@[simp] theorem State.respond_ie (s : State) (d : Word) : (s.respond d).ie = s.ie := rfl
@[simp] theorem State.respond_prMin (s : State) (d : Word) : (s.respond d).prMin = s.prMin := rfl
@[simp] theorem State.respond_prMax (s : State) (d : Word) : (s.respond d).prMax = s.prMax := rfl
@[simp] theorem State.respond_frameCnt (s : State) (d : Word) : (s.respond d).frameCnt = s.frameCnt := rfl
@[simp] theorem State.respond_discardCnt (s : State) (d : Word) : (s.respond d).discardCnt = s.discardCnt := rfl
@[simp] theorem State.respond_resyncCnt (s : State) (d : Word) : (s.respond d).resyncCnt = s.resyncCnt := rfl
@[simp] theorem State.respond_dispValid (s : State) (d : Word) : (s.respond d).dispValid = s.dispValid := rfl
@[simp] theorem State.respond_new (s : State) (d : Word) : (s.respond d).new = s.new := rfl
@[simp] theorem State.respond_cmdErr (s : State) (d : Word) : (s.respond d).cmdErr = s.cmdErr := rfl
@[simp] theorem State.respond_ovf (s : State) (d : Word) : (s.respond d).ovf = s.ovf := rfl
@[simp] theorem State.respond_fault (s : State) (d : Word) : (s.respond d).fault = s.fault := rfl
@[simp] theorem State.respond_disp (s : State) (d : Word) : (s.respond d).disp = s.disp := rfl
@[simp] theorem State.respond_out (s : State) (d : Word) : (s.respond d).out = s.out := rfl
@[simp] theorem State.respond_cfg (s : State) (d : Word) : (s.respond d).cfg = s.cfg := rfl
@[simp] theorem State.respond_cap (s : State) (d : Word) : (s.respond d).cap = s.cap := rfl
@[simp] theorem State.respond_newConfig (s : State) (d : Word) : (s.respond d).newConfig = s.newConfig := rfl
@[simp] theorem State.respond_resetIn (s : State) (d : Word) : (s.respond d).resetIn = s.resetIn := rfl
@[simp] theorem State.respond_cPort (s : State) (d : Word) : (s.respond d).cPort = s.cPort := rfl
@[simp] theorem State.respond_oPort (s : State) (d : Word) : (s.respond d).oPort = s.oPort := rfl
@[simp] theorem State.respond_resp (s : State) (d : Word) :
    (s.respond d).resp = some { port := s.port, code := .ok, data := d, frame := none } := rfl
@[simp] theorem State.respond_port (s : State) (d : Word) : (s.respond d).port = s.port := rfl
@[simp] theorem State.respond_draws (s : State) (d : Word) : (s.respond d).draws = s.draws := rfl

/-! ### emit -/

@[simp] theorem State.emit_buf (s : State) (e : Event) : (s.emit e).buf = s.buf := rfl
@[simp] theorem State.emit_sync (s : State) (e : Event) : (s.emit e).sync = s.sync := rfl
@[simp] theorem State.emit_pos (s : State) (e : Event) : (s.emit e).pos = s.pos := rfl
@[simp] theorem State.emit_pin (s : State) (e : Event) : (s.emit e).pin = s.pin := rfl
@[simp] theorem State.emit_ie (s : State) (e : Event) : (s.emit e).ie = s.ie := rfl
@[simp] theorem State.emit_prMin (s : State) (e : Event) : (s.emit e).prMin = s.prMin := rfl
@[simp] theorem State.emit_prMax (s : State) (e : Event) : (s.emit e).prMax = s.prMax := rfl
@[simp] theorem State.emit_frameCnt (s : State) (e : Event) : (s.emit e).frameCnt = s.frameCnt := rfl
@[simp] theorem State.emit_discardCnt (s : State) (e : Event) : (s.emit e).discardCnt = s.discardCnt := rfl
@[simp] theorem State.emit_resyncCnt (s : State) (e : Event) : (s.emit e).resyncCnt = s.resyncCnt := rfl
@[simp] theorem State.emit_dispValid (s : State) (e : Event) : (s.emit e).dispValid = s.dispValid := rfl
@[simp] theorem State.emit_new (s : State) (e : Event) : (s.emit e).new = s.new := rfl
@[simp] theorem State.emit_cmdErr (s : State) (e : Event) : (s.emit e).cmdErr = s.cmdErr := rfl
@[simp] theorem State.emit_ovf (s : State) (e : Event) : (s.emit e).ovf = s.ovf := rfl
@[simp] theorem State.emit_fault (s : State) (e : Event) : (s.emit e).fault = s.fault := rfl
@[simp] theorem State.emit_disp (s : State) (e : Event) : (s.emit e).disp = s.disp := rfl
@[simp] theorem State.emit_out (s : State) (e : Event) : (s.emit e).out = s.out ++ [e] := rfl
@[simp] theorem State.emit_cfg (s : State) (e : Event) : (s.emit e).cfg = s.cfg := rfl
@[simp] theorem State.emit_cap (s : State) (e : Event) : (s.emit e).cap = s.cap := rfl
@[simp] theorem State.emit_newConfig (s : State) (e : Event) : (s.emit e).newConfig = s.newConfig := rfl
@[simp] theorem State.emit_resetIn (s : State) (e : Event) : (s.emit e).resetIn = s.resetIn := rfl
@[simp] theorem State.emit_cPort (s : State) (e : Event) : (s.emit e).cPort = s.cPort := rfl
@[simp] theorem State.emit_oPort (s : State) (e : Event) : (s.emit e).oPort = s.oPort := rfl
@[simp] theorem State.emit_resp (s : State) (e : Event) : (s.emit e).resp = s.resp := rfl
@[simp] theorem State.emit_port (s : State) (e : Event) : (s.emit e).port = s.port := rfl
@[simp] theorem State.emit_draws (s : State) (e : Event) : (s.emit e).draws = s.draws := rfl

/-! ### appendByte -/

@[simp] theorem State.appendByte_buf (s : State) (b : Byte) : (s.appendByte b).buf = s.buf ++ [b] := rfl
@[simp] theorem State.appendByte_sync (s : State) (b : Byte) : (s.appendByte b).sync = s.sync := rfl
@[simp] theorem State.appendByte_pos (s : State) (b : Byte) : (s.appendByte b).pos = s.pos := rfl
@[simp] theorem State.appendByte_pin (s : State) (b : Byte) : (s.appendByte b).pin = s.pin := rfl
@[simp] theorem State.appendByte_ie (s : State) (b : Byte) : (s.appendByte b).ie = s.ie := rfl
@[simp] theorem State.appendByte_prMin (s : State) (b : Byte) : (s.appendByte b).prMin = s.prMin := rfl
@[simp] theorem State.appendByte_prMax (s : State) (b : Byte) : (s.appendByte b).prMax = s.prMax := rfl
@[simp] theorem State.appendByte_frameCnt (s : State) (b : Byte) : (s.appendByte b).frameCnt = s.frameCnt := rfl
@[simp] theorem State.appendByte_discardCnt (s : State) (b : Byte) : (s.appendByte b).discardCnt = s.discardCnt := rfl
@[simp] theorem State.appendByte_resyncCnt (s : State) (b : Byte) : (s.appendByte b).resyncCnt = s.resyncCnt := rfl
@[simp] theorem State.appendByte_dispValid (s : State) (b : Byte) : (s.appendByte b).dispValid = s.dispValid := rfl
@[simp] theorem State.appendByte_new (s : State) (b : Byte) : (s.appendByte b).new = s.new := rfl
@[simp] theorem State.appendByte_cmdErr (s : State) (b : Byte) : (s.appendByte b).cmdErr = s.cmdErr := rfl
@[simp] theorem State.appendByte_ovf (s : State) (b : Byte) : (s.appendByte b).ovf = s.ovf := rfl
@[simp] theorem State.appendByte_fault (s : State) (b : Byte) : (s.appendByte b).fault = s.fault := rfl
@[simp] theorem State.appendByte_disp (s : State) (b : Byte) : (s.appendByte b).disp = s.disp := rfl
@[simp] theorem State.appendByte_out (s : State) (b : Byte) : (s.appendByte b).out = s.out := rfl
@[simp] theorem State.appendByte_cfg (s : State) (b : Byte) : (s.appendByte b).cfg = s.cfg := rfl
@[simp] theorem State.appendByte_cap (s : State) (b : Byte) : (s.appendByte b).cap = s.cap := rfl
@[simp] theorem State.appendByte_newConfig (s : State) (b : Byte) : (s.appendByte b).newConfig = s.newConfig := rfl
@[simp] theorem State.appendByte_resetIn (s : State) (b : Byte) : (s.appendByte b).resetIn = s.resetIn := rfl
@[simp] theorem State.appendByte_cPort (s : State) (b : Byte) : (s.appendByte b).cPort = s.cPort := rfl
@[simp] theorem State.appendByte_oPort (s : State) (b : Byte) : (s.appendByte b).oPort = s.oPort := rfl
@[simp] theorem State.appendByte_resp (s : State) (b : Byte) : (s.appendByte b).resp = s.resp := rfl
@[simp] theorem State.appendByte_port (s : State) (b : Byte) : (s.appendByte b).port = s.port := rfl
@[simp] theorem State.appendByte_draws (s : State) (b : Byte) : (s.appendByte b).draws = s.draws := rfl

/-! ### dropFrame -/

@[simp] theorem State.dropFrame_buf (s : State) : s.dropFrame.buf = s.buf.drop frameBytes := rfl
@[simp] theorem State.dropFrame_sync (s : State) : s.dropFrame.sync = s.sync := rfl
@[simp] theorem State.dropFrame_pos (s : State) : s.dropFrame.pos = s.pos + frameBytes := rfl
@[simp] theorem State.dropFrame_pin (s : State) : s.dropFrame.pin = s.pin := rfl
@[simp] theorem State.dropFrame_ie (s : State) : s.dropFrame.ie = s.ie := rfl
@[simp] theorem State.dropFrame_prMin (s : State) : s.dropFrame.prMin = s.prMin := rfl
@[simp] theorem State.dropFrame_prMax (s : State) : s.dropFrame.prMax = s.prMax := rfl
@[simp] theorem State.dropFrame_frameCnt (s : State) : s.dropFrame.frameCnt = s.frameCnt := rfl
@[simp] theorem State.dropFrame_discardCnt (s : State) : s.dropFrame.discardCnt = s.discardCnt := rfl
@[simp] theorem State.dropFrame_resyncCnt (s : State) : s.dropFrame.resyncCnt = s.resyncCnt := rfl
@[simp] theorem State.dropFrame_dispValid (s : State) : s.dropFrame.dispValid = s.dispValid := rfl
@[simp] theorem State.dropFrame_new (s : State) : s.dropFrame.new = s.new := rfl
@[simp] theorem State.dropFrame_cmdErr (s : State) : s.dropFrame.cmdErr = s.cmdErr := rfl
@[simp] theorem State.dropFrame_ovf (s : State) : s.dropFrame.ovf = s.ovf := rfl
@[simp] theorem State.dropFrame_fault (s : State) : s.dropFrame.fault = s.fault := rfl
@[simp] theorem State.dropFrame_disp (s : State) : s.dropFrame.disp = s.disp := rfl
@[simp] theorem State.dropFrame_out (s : State) : s.dropFrame.out = s.out := rfl
@[simp] theorem State.dropFrame_cfg (s : State) : s.dropFrame.cfg = s.cfg := rfl
@[simp] theorem State.dropFrame_cap (s : State) : s.dropFrame.cap = s.cap := rfl
@[simp] theorem State.dropFrame_newConfig (s : State) : s.dropFrame.newConfig = s.newConfig := rfl
@[simp] theorem State.dropFrame_resetIn (s : State) : s.dropFrame.resetIn = s.resetIn := rfl
@[simp] theorem State.dropFrame_cPort (s : State) : s.dropFrame.cPort = s.cPort := rfl
@[simp] theorem State.dropFrame_oPort (s : State) : s.dropFrame.oPort = s.oPort := rfl
@[simp] theorem State.dropFrame_resp (s : State) : s.dropFrame.resp = s.resp := rfl
@[simp] theorem State.dropFrame_port (s : State) : s.dropFrame.port = s.port := rfl
@[simp] theorem State.dropFrame_draws (s : State) : s.dropFrame.draws = s.draws := rfl

/-! ### lockOnFrame -/

@[simp] theorem State.lockOnFrame_buf (s : State) : s.lockOnFrame.buf = s.buf.drop frameBytes := rfl
@[simp] theorem State.lockOnFrame_sync (s : State) : s.lockOnFrame.sync = .locked := rfl
@[simp] theorem State.lockOnFrame_pos (s : State) : s.lockOnFrame.pos = s.pos + frameBytes := rfl
@[simp] theorem State.lockOnFrame_pin (s : State) : s.lockOnFrame.pin = s.pin := rfl
@[simp] theorem State.lockOnFrame_ie (s : State) : s.lockOnFrame.ie = s.ie := rfl
@[simp] theorem State.lockOnFrame_prMin (s : State) : s.lockOnFrame.prMin = s.prMin := rfl
@[simp] theorem State.lockOnFrame_prMax (s : State) : s.lockOnFrame.prMax = s.prMax := rfl
@[simp] theorem State.lockOnFrame_frameCnt (s : State) : s.lockOnFrame.frameCnt = s.frameCnt := rfl
@[simp] theorem State.lockOnFrame_discardCnt (s : State) : s.lockOnFrame.discardCnt = s.discardCnt := rfl
@[simp] theorem State.lockOnFrame_resyncCnt (s : State) : s.lockOnFrame.resyncCnt = s.resyncCnt := rfl
@[simp] theorem State.lockOnFrame_dispValid (s : State) : s.lockOnFrame.dispValid = s.dispValid := rfl
@[simp] theorem State.lockOnFrame_new (s : State) : s.lockOnFrame.new = s.new := rfl
@[simp] theorem State.lockOnFrame_cmdErr (s : State) : s.lockOnFrame.cmdErr = s.cmdErr := rfl
@[simp] theorem State.lockOnFrame_ovf (s : State) : s.lockOnFrame.ovf = s.ovf := rfl
@[simp] theorem State.lockOnFrame_fault (s : State) : s.lockOnFrame.fault = s.fault := rfl
@[simp] theorem State.lockOnFrame_disp (s : State) : s.lockOnFrame.disp = s.disp := rfl
@[simp] theorem State.lockOnFrame_out (s : State) : s.lockOnFrame.out = s.out := rfl
@[simp] theorem State.lockOnFrame_cfg (s : State) : s.lockOnFrame.cfg = s.cfg := rfl
@[simp] theorem State.lockOnFrame_cap (s : State) : s.lockOnFrame.cap = s.cap := rfl
@[simp] theorem State.lockOnFrame_newConfig (s : State) : s.lockOnFrame.newConfig = s.newConfig := rfl
@[simp] theorem State.lockOnFrame_resetIn (s : State) : s.lockOnFrame.resetIn = s.resetIn := rfl
@[simp] theorem State.lockOnFrame_cPort (s : State) : s.lockOnFrame.cPort = s.cPort := rfl
@[simp] theorem State.lockOnFrame_oPort (s : State) : s.lockOnFrame.oPort = s.oPort := rfl
@[simp] theorem State.lockOnFrame_resp (s : State) : s.lockOnFrame.resp = s.resp := rfl
@[simp] theorem State.lockOnFrame_port (s : State) : s.lockOnFrame.port = s.port := rfl
@[simp] theorem State.lockOnFrame_draws (s : State) : s.lockOnFrame.draws = s.draws := rfl

/-! ### clearBuf -/

@[simp] theorem State.clearBuf_buf (s : State) : s.clearBuf.buf = [] := rfl
@[simp] theorem State.clearBuf_sync (s : State) : s.clearBuf.sync = s.sync := rfl
@[simp] theorem State.clearBuf_pos (s : State) : s.clearBuf.pos = 0 := rfl
@[simp] theorem State.clearBuf_pin (s : State) : s.clearBuf.pin = s.pin := rfl
@[simp] theorem State.clearBuf_ie (s : State) : s.clearBuf.ie = s.ie := rfl
@[simp] theorem State.clearBuf_prMin (s : State) : s.clearBuf.prMin = s.prMin := rfl
@[simp] theorem State.clearBuf_prMax (s : State) : s.clearBuf.prMax = s.prMax := rfl
@[simp] theorem State.clearBuf_frameCnt (s : State) : s.clearBuf.frameCnt = s.frameCnt := rfl
@[simp] theorem State.clearBuf_discardCnt (s : State) : s.clearBuf.discardCnt = s.discardCnt := rfl
@[simp] theorem State.clearBuf_resyncCnt (s : State) : s.clearBuf.resyncCnt = s.resyncCnt := rfl
@[simp] theorem State.clearBuf_dispValid (s : State) : s.clearBuf.dispValid = s.dispValid := rfl
@[simp] theorem State.clearBuf_new (s : State) : s.clearBuf.new = s.new := rfl
@[simp] theorem State.clearBuf_cmdErr (s : State) : s.clearBuf.cmdErr = s.cmdErr := rfl
@[simp] theorem State.clearBuf_ovf (s : State) : s.clearBuf.ovf = s.ovf := rfl
@[simp] theorem State.clearBuf_fault (s : State) : s.clearBuf.fault = s.fault := rfl
@[simp] theorem State.clearBuf_disp (s : State) : s.clearBuf.disp = s.disp := rfl
@[simp] theorem State.clearBuf_out (s : State) : s.clearBuf.out = s.out := rfl
@[simp] theorem State.clearBuf_cfg (s : State) : s.clearBuf.cfg = s.cfg := rfl
@[simp] theorem State.clearBuf_cap (s : State) : s.clearBuf.cap = s.cap := rfl
@[simp] theorem State.clearBuf_newConfig (s : State) : s.clearBuf.newConfig = s.newConfig := rfl
@[simp] theorem State.clearBuf_resetIn (s : State) : s.clearBuf.resetIn = s.resetIn := rfl
@[simp] theorem State.clearBuf_cPort (s : State) : s.clearBuf.cPort = s.cPort := rfl
@[simp] theorem State.clearBuf_oPort (s : State) : s.clearBuf.oPort = s.oPort := rfl
@[simp] theorem State.clearBuf_resp (s : State) : s.clearBuf.resp = s.resp := rfl
@[simp] theorem State.clearBuf_port (s : State) : s.clearBuf.port = s.port := rfl
@[simp] theorem State.clearBuf_draws (s : State) : s.clearBuf.draws = s.draws := rfl

/-! ### writeDisp -/

@[simp] theorem State.writeDisp_buf (s : State) (p : List Pixel) : (s.writeDisp p).buf = s.buf := rfl
@[simp] theorem State.writeDisp_sync (s : State) (p : List Pixel) : (s.writeDisp p).sync = s.sync := rfl
@[simp] theorem State.writeDisp_pos (s : State) (p : List Pixel) : (s.writeDisp p).pos = s.pos := rfl
@[simp] theorem State.writeDisp_pin (s : State) (p : List Pixel) : (s.writeDisp p).pin = s.pin := rfl
@[simp] theorem State.writeDisp_ie (s : State) (p : List Pixel) : (s.writeDisp p).ie = s.ie := rfl
@[simp] theorem State.writeDisp_prMin (s : State) (p : List Pixel) : (s.writeDisp p).prMin = s.prMin := rfl
@[simp] theorem State.writeDisp_prMax (s : State) (p : List Pixel) : (s.writeDisp p).prMax = s.prMax := rfl
@[simp] theorem State.writeDisp_frameCnt (s : State) (p : List Pixel) :
    (s.writeDisp p).frameCnt = s.frameCnt := rfl
@[simp] theorem State.writeDisp_discardCnt (s : State) (p : List Pixel) :
    (s.writeDisp p).discardCnt = s.discardCnt := rfl
@[simp] theorem State.writeDisp_resyncCnt (s : State) (p : List Pixel) :
    (s.writeDisp p).resyncCnt = s.resyncCnt := rfl
@[simp] theorem State.writeDisp_dispValid (s : State) (p : List Pixel) :
    (s.writeDisp p).dispValid = s.dispValid := rfl
@[simp] theorem State.writeDisp_new (s : State) (p : List Pixel) : (s.writeDisp p).new = s.new := rfl
@[simp] theorem State.writeDisp_cmdErr (s : State) (p : List Pixel) : (s.writeDisp p).cmdErr = s.cmdErr := rfl
@[simp] theorem State.writeDisp_ovf (s : State) (p : List Pixel) : (s.writeDisp p).ovf = s.ovf := rfl
@[simp] theorem State.writeDisp_fault (s : State) (p : List Pixel) : (s.writeDisp p).fault = s.fault := rfl
@[simp] theorem State.writeDisp_disp (s : State) (p : List Pixel) : (s.writeDisp p).disp = p := rfl
@[simp] theorem State.writeDisp_out (s : State) (p : List Pixel) : (s.writeDisp p).out = s.out := rfl
@[simp] theorem State.writeDisp_cfg (s : State) (p : List Pixel) : (s.writeDisp p).cfg = s.cfg := rfl
@[simp] theorem State.writeDisp_cap (s : State) (p : List Pixel) : (s.writeDisp p).cap = s.cap := rfl
@[simp] theorem State.writeDisp_newConfig (s : State) (p : List Pixel) :
    (s.writeDisp p).newConfig = s.newConfig := rfl
@[simp] theorem State.writeDisp_resetIn (s : State) (p : List Pixel) : (s.writeDisp p).resetIn = s.resetIn := rfl
@[simp] theorem State.writeDisp_cPort (s : State) (p : List Pixel) : (s.writeDisp p).cPort = s.cPort := rfl
@[simp] theorem State.writeDisp_oPort (s : State) (p : List Pixel) : (s.writeDisp p).oPort = s.oPort := rfl
@[simp] theorem State.writeDisp_resp (s : State) (p : List Pixel) : (s.writeDisp p).resp = s.resp := rfl
@[simp] theorem State.writeDisp_port (s : State) (p : List Pixel) : (s.writeDisp p).port = s.port := rfl
@[simp] theorem State.writeDisp_draws (s : State) (p : List Pixel) : (s.writeDisp p).draws = s.draws := rfl

/-! ### setDraws -/

@[simp] theorem State.setDraws_buf (s : State) (n : Nat) : (s.setDraws n).buf = s.buf := rfl
@[simp] theorem State.setDraws_sync (s : State) (n : Nat) : (s.setDraws n).sync = s.sync := rfl
@[simp] theorem State.setDraws_pos (s : State) (n : Nat) : (s.setDraws n).pos = s.pos := rfl
@[simp] theorem State.setDraws_pin (s : State) (n : Nat) : (s.setDraws n).pin = s.pin := rfl
@[simp] theorem State.setDraws_ie (s : State) (n : Nat) : (s.setDraws n).ie = s.ie := rfl
@[simp] theorem State.setDraws_prMin (s : State) (n : Nat) : (s.setDraws n).prMin = s.prMin := rfl
@[simp] theorem State.setDraws_prMax (s : State) (n : Nat) : (s.setDraws n).prMax = s.prMax := rfl
@[simp] theorem State.setDraws_frameCnt (s : State) (n : Nat) : (s.setDraws n).frameCnt = s.frameCnt := rfl
@[simp] theorem State.setDraws_discardCnt (s : State) (n : Nat) : (s.setDraws n).discardCnt = s.discardCnt := rfl
@[simp] theorem State.setDraws_resyncCnt (s : State) (n : Nat) : (s.setDraws n).resyncCnt = s.resyncCnt := rfl
@[simp] theorem State.setDraws_dispValid (s : State) (n : Nat) : (s.setDraws n).dispValid = s.dispValid := rfl
@[simp] theorem State.setDraws_new (s : State) (n : Nat) : (s.setDraws n).new = s.new := rfl
@[simp] theorem State.setDraws_cmdErr (s : State) (n : Nat) : (s.setDraws n).cmdErr = s.cmdErr := rfl
@[simp] theorem State.setDraws_ovf (s : State) (n : Nat) : (s.setDraws n).ovf = s.ovf := rfl
@[simp] theorem State.setDraws_fault (s : State) (n : Nat) : (s.setDraws n).fault = s.fault := rfl
@[simp] theorem State.setDraws_disp (s : State) (n : Nat) : (s.setDraws n).disp = s.disp := rfl
@[simp] theorem State.setDraws_out (s : State) (n : Nat) : (s.setDraws n).out = s.out := rfl
@[simp] theorem State.setDraws_cfg (s : State) (n : Nat) : (s.setDraws n).cfg = s.cfg := rfl
@[simp] theorem State.setDraws_cap (s : State) (n : Nat) : (s.setDraws n).cap = s.cap := rfl
@[simp] theorem State.setDraws_newConfig (s : State) (n : Nat) : (s.setDraws n).newConfig = s.newConfig := rfl
@[simp] theorem State.setDraws_resetIn (s : State) (n : Nat) : (s.setDraws n).resetIn = s.resetIn := rfl
@[simp] theorem State.setDraws_cPort (s : State) (n : Nat) : (s.setDraws n).cPort = s.cPort := rfl
@[simp] theorem State.setDraws_oPort (s : State) (n : Nat) : (s.setDraws n).oPort = s.oPort := rfl
@[simp] theorem State.setDraws_resp (s : State) (n : Nat) : (s.setDraws n).resp = s.resp := rfl
@[simp] theorem State.setDraws_port (s : State) (n : Nat) : (s.setDraws n).port = s.port := rfl
@[simp] theorem State.setDraws_draws (s : State) (n : Nat) : (s.setDraws n).draws = n := rfl

/-! ### takeC -/

@[simp] theorem State.takeC_buf (s : State) (ws : List Word) : (s.takeC ws).buf = s.buf := rfl
@[simp] theorem State.takeC_sync (s : State) (ws : List Word) : (s.takeC ws).sync = s.sync := rfl
@[simp] theorem State.takeC_pos (s : State) (ws : List Word) : (s.takeC ws).pos = s.pos := rfl
@[simp] theorem State.takeC_pin (s : State) (ws : List Word) : (s.takeC ws).pin = s.pin := rfl
@[simp] theorem State.takeC_ie (s : State) (ws : List Word) : (s.takeC ws).ie = s.ie := rfl
@[simp] theorem State.takeC_prMin (s : State) (ws : List Word) : (s.takeC ws).prMin = s.prMin := rfl
@[simp] theorem State.takeC_prMax (s : State) (ws : List Word) : (s.takeC ws).prMax = s.prMax := rfl
@[simp] theorem State.takeC_frameCnt (s : State) (ws : List Word) : (s.takeC ws).frameCnt = s.frameCnt := rfl
@[simp] theorem State.takeC_discardCnt (s : State) (ws : List Word) : (s.takeC ws).discardCnt = s.discardCnt := rfl
@[simp] theorem State.takeC_resyncCnt (s : State) (ws : List Word) : (s.takeC ws).resyncCnt = s.resyncCnt := rfl
@[simp] theorem State.takeC_dispValid (s : State) (ws : List Word) : (s.takeC ws).dispValid = s.dispValid := rfl
@[simp] theorem State.takeC_new (s : State) (ws : List Word) : (s.takeC ws).new = s.new := rfl
@[simp] theorem State.takeC_cmdErr (s : State) (ws : List Word) : (s.takeC ws).cmdErr = s.cmdErr := rfl
@[simp] theorem State.takeC_ovf (s : State) (ws : List Word) : (s.takeC ws).ovf = s.ovf := rfl
@[simp] theorem State.takeC_fault (s : State) (ws : List Word) : (s.takeC ws).fault = s.fault := rfl
@[simp] theorem State.takeC_disp (s : State) (ws : List Word) : (s.takeC ws).disp = s.disp := rfl
@[simp] theorem State.takeC_out (s : State) (ws : List Word) : (s.takeC ws).out = s.out := rfl
@[simp] theorem State.takeC_cfg (s : State) (ws : List Word) : (s.takeC ws).cfg = s.cfg := rfl
@[simp] theorem State.takeC_cap (s : State) (ws : List Word) : (s.takeC ws).cap = s.cap := rfl
@[simp] theorem State.takeC_newConfig (s : State) (ws : List Word) : (s.takeC ws).newConfig = s.newConfig := rfl
@[simp] theorem State.takeC_resetIn (s : State) (ws : List Word) : (s.takeC ws).resetIn = s.resetIn := rfl
@[simp] theorem State.takeC_cPort (s : State) (ws : List Word) : (s.takeC ws).cPort = ws := rfl
@[simp] theorem State.takeC_oPort (s : State) (ws : List Word) : (s.takeC ws).oPort = s.oPort := rfl
@[simp] theorem State.takeC_resp (s : State) (ws : List Word) : (s.takeC ws).resp = s.resp := rfl
@[simp] theorem State.takeC_port (s : State) (ws : List Word) : (s.takeC ws).port = .c := rfl
@[simp] theorem State.takeC_draws (s : State) (ws : List Word) : (s.takeC ws).draws = s.draws := rfl

/-! ### takeO -/

@[simp] theorem State.takeO_buf (s : State) (ws : List Word) : (s.takeO ws).buf = s.buf := rfl
@[simp] theorem State.takeO_sync (s : State) (ws : List Word) : (s.takeO ws).sync = s.sync := rfl
@[simp] theorem State.takeO_pos (s : State) (ws : List Word) : (s.takeO ws).pos = s.pos := rfl
@[simp] theorem State.takeO_pin (s : State) (ws : List Word) : (s.takeO ws).pin = s.pin := rfl
@[simp] theorem State.takeO_ie (s : State) (ws : List Word) : (s.takeO ws).ie = s.ie := rfl
@[simp] theorem State.takeO_prMin (s : State) (ws : List Word) : (s.takeO ws).prMin = s.prMin := rfl
@[simp] theorem State.takeO_prMax (s : State) (ws : List Word) : (s.takeO ws).prMax = s.prMax := rfl
@[simp] theorem State.takeO_frameCnt (s : State) (ws : List Word) : (s.takeO ws).frameCnt = s.frameCnt := rfl
@[simp] theorem State.takeO_discardCnt (s : State) (ws : List Word) : (s.takeO ws).discardCnt = s.discardCnt := rfl
@[simp] theorem State.takeO_resyncCnt (s : State) (ws : List Word) : (s.takeO ws).resyncCnt = s.resyncCnt := rfl
@[simp] theorem State.takeO_dispValid (s : State) (ws : List Word) : (s.takeO ws).dispValid = s.dispValid := rfl
@[simp] theorem State.takeO_new (s : State) (ws : List Word) : (s.takeO ws).new = s.new := rfl
@[simp] theorem State.takeO_cmdErr (s : State) (ws : List Word) : (s.takeO ws).cmdErr = s.cmdErr := rfl
@[simp] theorem State.takeO_ovf (s : State) (ws : List Word) : (s.takeO ws).ovf = s.ovf := rfl
@[simp] theorem State.takeO_fault (s : State) (ws : List Word) : (s.takeO ws).fault = s.fault := rfl
@[simp] theorem State.takeO_disp (s : State) (ws : List Word) : (s.takeO ws).disp = s.disp := rfl
@[simp] theorem State.takeO_out (s : State) (ws : List Word) : (s.takeO ws).out = s.out := rfl
@[simp] theorem State.takeO_cfg (s : State) (ws : List Word) : (s.takeO ws).cfg = s.cfg := rfl
@[simp] theorem State.takeO_cap (s : State) (ws : List Word) : (s.takeO ws).cap = s.cap := rfl
@[simp] theorem State.takeO_newConfig (s : State) (ws : List Word) : (s.takeO ws).newConfig = s.newConfig := rfl
@[simp] theorem State.takeO_resetIn (s : State) (ws : List Word) : (s.takeO ws).resetIn = s.resetIn := rfl
@[simp] theorem State.takeO_cPort (s : State) (ws : List Word) : (s.takeO ws).cPort = s.cPort := rfl
@[simp] theorem State.takeO_oPort (s : State) (ws : List Word) : (s.takeO ws).oPort = ws := rfl
@[simp] theorem State.takeO_resp (s : State) (ws : List Word) : (s.takeO ws).resp = s.resp := rfl
@[simp] theorem State.takeO_port (s : State) (ws : List Word) : (s.takeO ws).port = .o := rfl
@[simp] theorem State.takeO_draws (s : State) (ws : List Word) : (s.takeO ws).draws = s.draws := rfl

/-! ### showFrame -/

@[simp] theorem State.showFrame_buf (s : State) (w : List Byte) (t : List Sample) :
    (s.showFrame w t).buf = s.buf := rfl
@[simp] theorem State.showFrame_sync (s : State) (w : List Byte) (t : List Sample) :
    (s.showFrame w t).sync = s.sync := rfl
@[simp] theorem State.showFrame_pos (s : State) (w : List Byte) (t : List Sample) :
    (s.showFrame w t).pos = s.pos := rfl
@[simp] theorem State.showFrame_pin (s : State) (w : List Byte) (t : List Sample) :
    (s.showFrame w t).pin = s.pin := rfl
@[simp] theorem State.showFrame_ie (s : State) (w : List Byte) (t : List Sample) :
    (s.showFrame w t).ie = s.ie := rfl
@[simp] theorem State.showFrame_prMin (s : State) (w : List Byte) (t : List Sample) :
    (s.showFrame w t).prMin = s.prMin := rfl
@[simp] theorem State.showFrame_prMax (s : State) (w : List Byte) (t : List Sample) :
    (s.showFrame w t).prMax = s.prMax := rfl
@[simp] theorem State.showFrame_frameCnt (s : State) (w : List Byte) (t : List Sample) :
    (s.showFrame w t).frameCnt = s.frameCnt + 1 := rfl
@[simp] theorem State.showFrame_discardCnt (s : State) (w : List Byte) (t : List Sample) :
    (s.showFrame w t).discardCnt = s.discardCnt := rfl
@[simp] theorem State.showFrame_resyncCnt (s : State) (w : List Byte) (t : List Sample) :
    (s.showFrame w t).resyncCnt = s.resyncCnt := rfl
@[simp] theorem State.showFrame_dispValid (s : State) (w : List Byte) (t : List Sample) :
    (s.showFrame w t).dispValid = true := rfl
@[simp] theorem State.showFrame_new (s : State) (w : List Byte) (t : List Sample) :
    (s.showFrame w t).new = true := rfl
@[simp] theorem State.showFrame_cmdErr (s : State) (w : List Byte) (t : List Sample) :
    (s.showFrame w t).cmdErr = s.cmdErr := rfl
@[simp] theorem State.showFrame_ovf (s : State) (w : List Byte) (t : List Sample) :
    (s.showFrame w t).ovf = s.ovf := rfl
@[simp] theorem State.showFrame_fault (s : State) (w : List Byte) (t : List Sample) :
    (s.showFrame w t).fault = s.fault := rfl
@[simp] theorem State.showFrame_disp (s : State) (w : List Byte) (t : List Sample) :
    (s.showFrame w t).disp = mapFrame s.cfg t s.prMin s.prMax := rfl
@[simp] theorem State.showFrame_out (s : State) (w : List Byte) (t : List Sample) :
    (s.showFrame w t).out = s.out ++ [.frame w t s.prMin s.prMax (mapFrame s.cfg t s.prMin s.prMax)] := rfl
@[simp] theorem State.showFrame_cfg (s : State) (w : List Byte) (t : List Sample) :
    (s.showFrame w t).cfg = s.cfg := rfl
@[simp] theorem State.showFrame_cap (s : State) (w : List Byte) (t : List Sample) :
    (s.showFrame w t).cap = s.cap := rfl
@[simp] theorem State.showFrame_newConfig (s : State) (w : List Byte) (t : List Sample) :
    (s.showFrame w t).newConfig = s.newConfig := rfl
@[simp] theorem State.showFrame_resetIn (s : State) (w : List Byte) (t : List Sample) :
    (s.showFrame w t).resetIn = s.resetIn := rfl
@[simp] theorem State.showFrame_cPort (s : State) (w : List Byte) (t : List Sample) :
    (s.showFrame w t).cPort = s.cPort := rfl
@[simp] theorem State.showFrame_oPort (s : State) (w : List Byte) (t : List Sample) :
    (s.showFrame w t).oPort = s.oPort := rfl
@[simp] theorem State.showFrame_resp (s : State) (w : List Byte) (t : List Sample) :
    (s.showFrame w t).resp = s.resp := rfl
@[simp] theorem State.showFrame_port (s : State) (w : List Byte) (t : List Sample) :
    (s.showFrame w t).port = s.port := rfl
@[simp] theorem State.showFrame_draws (s : State) (w : List Byte) (t : List Sample) :
    (s.showFrame w t).draws = s.draws := rfl

/-! ### flush -/

@[simp] theorem State.flush_buf (s : State) : s.flush.buf = [] := rfl
@[simp] theorem State.flush_sync (s : State) : s.flush.sync = .seeking := rfl
@[simp] theorem State.flush_pos (s : State) : s.flush.pos = 0 := rfl
@[simp] theorem State.flush_pin (s : State) : s.flush.pin = s.pin := rfl
@[simp] theorem State.flush_ie (s : State) : s.flush.ie = s.ie := rfl
@[simp] theorem State.flush_prMin (s : State) : s.flush.prMin = s.prMin := rfl
@[simp] theorem State.flush_prMax (s : State) : s.flush.prMax = s.prMax := rfl
@[simp] theorem State.flush_frameCnt (s : State) : s.flush.frameCnt = s.frameCnt := rfl
@[simp] theorem State.flush_discardCnt (s : State) : s.flush.discardCnt = s.discardCnt := rfl
@[simp] theorem State.flush_resyncCnt (s : State) : s.flush.resyncCnt = s.resyncCnt := rfl
@[simp] theorem State.flush_dispValid (s : State) : s.flush.dispValid = s.dispValid := rfl
@[simp] theorem State.flush_new (s : State) : s.flush.new = s.new := rfl
@[simp] theorem State.flush_cmdErr (s : State) : s.flush.cmdErr = s.cmdErr := rfl
@[simp] theorem State.flush_ovf (s : State) : s.flush.ovf = s.ovf := rfl
@[simp] theorem State.flush_fault (s : State) : s.flush.fault = s.fault := rfl
@[simp] theorem State.flush_disp (s : State) : s.flush.disp = s.disp := rfl
@[simp] theorem State.flush_out (s : State) : s.flush.out = s.out ++ [.flushed s.buf.length] := rfl
@[simp] theorem State.flush_cfg (s : State) : s.flush.cfg = s.cfg := rfl
@[simp] theorem State.flush_cap (s : State) : s.flush.cap = s.cap := rfl
@[simp] theorem State.flush_newConfig (s : State) : s.flush.newConfig = s.newConfig := rfl
@[simp] theorem State.flush_resetIn (s : State) : s.flush.resetIn = s.resetIn := rfl
@[simp] theorem State.flush_cPort (s : State) : s.flush.cPort = s.cPort := rfl
@[simp] theorem State.flush_oPort (s : State) : s.flush.oPort = s.oPort := rfl
@[simp] theorem State.flush_resp (s : State) :
    s.flush.resp = some { port := s.port, code := .ok, data := 0, frame := none } := rfl
@[simp] theorem State.flush_port (s : State) : s.flush.port = s.port := rfl
@[simp] theorem State.flush_draws (s : State) : s.flush.draws = s.draws := rfl

/-! ### resetRange -/

@[simp] theorem State.resetRange_buf (s : State) : s.resetRange.buf = s.buf := rfl
@[simp] theorem State.resetRange_sync (s : State) : s.resetRange.sync = s.sync := rfl
@[simp] theorem State.resetRange_pos (s : State) : s.resetRange.pos = s.pos := rfl
@[simp] theorem State.resetRange_pin (s : State) : s.resetRange.pin = s.pin := rfl
@[simp] theorem State.resetRange_ie (s : State) : s.resetRange.ie = s.ie := rfl
@[simp] theorem State.resetRange_prMin (s : State) : s.resetRange.prMin = s.cfg.defaultMin := rfl
@[simp] theorem State.resetRange_prMax (s : State) : s.resetRange.prMax = s.cfg.defaultMax := rfl
@[simp] theorem State.resetRange_frameCnt (s : State) : s.resetRange.frameCnt = s.frameCnt := rfl
@[simp] theorem State.resetRange_discardCnt (s : State) : s.resetRange.discardCnt = s.discardCnt := rfl
@[simp] theorem State.resetRange_resyncCnt (s : State) : s.resetRange.resyncCnt = s.resyncCnt := rfl
@[simp] theorem State.resetRange_dispValid (s : State) : s.resetRange.dispValid = s.dispValid := rfl
@[simp] theorem State.resetRange_new (s : State) : s.resetRange.new = s.new := rfl
@[simp] theorem State.resetRange_cmdErr (s : State) : s.resetRange.cmdErr = s.cmdErr := rfl
@[simp] theorem State.resetRange_ovf (s : State) : s.resetRange.ovf = s.ovf := rfl
@[simp] theorem State.resetRange_fault (s : State) : s.resetRange.fault = s.fault := rfl
@[simp] theorem State.resetRange_disp (s : State) : s.resetRange.disp = s.disp := rfl
@[simp] theorem State.resetRange_out (s : State) : s.resetRange.out = s.out := rfl
@[simp] theorem State.resetRange_cfg (s : State) : s.resetRange.cfg = s.cfg := rfl
@[simp] theorem State.resetRange_cap (s : State) : s.resetRange.cap = s.cap := rfl
@[simp] theorem State.resetRange_newConfig (s : State) : s.resetRange.newConfig = s.newConfig := rfl
@[simp] theorem State.resetRange_resetIn (s : State) : s.resetRange.resetIn = s.resetIn := rfl
@[simp] theorem State.resetRange_cPort (s : State) : s.resetRange.cPort = s.cPort := rfl
@[simp] theorem State.resetRange_oPort (s : State) : s.resetRange.oPort = s.oPort := rfl
@[simp] theorem State.resetRange_resp (s : State) :
    s.resetRange.resp = some { port := s.port, code := .ok, data := 0, frame := none } := rfl
@[simp] theorem State.resetRange_port (s : State) : s.resetRange.port = s.port := rfl
@[simp] theorem State.resetRange_draws (s : State) : s.resetRange.draws = s.draws := rfl

/-! ### resetBlock -/

@[simp] theorem State.resetBlock_buf (s : State) : s.resetBlock.buf = [] := rfl
@[simp] theorem State.resetBlock_sync (s : State) : s.resetBlock.sync = .seeking := rfl
@[simp] theorem State.resetBlock_pos (s : State) : s.resetBlock.pos = 0 := rfl
@[simp] theorem State.resetBlock_pin (s : State) : s.resetBlock.pin = false := rfl
@[simp] theorem State.resetBlock_ie (s : State) : s.resetBlock.ie = false := rfl
@[simp] theorem State.resetBlock_prMin (s : State) : s.resetBlock.prMin = s.configInputs.1.defaultMin := rfl
@[simp] theorem State.resetBlock_prMax (s : State) : s.resetBlock.prMax = s.configInputs.1.defaultMax := rfl
@[simp] theorem State.resetBlock_frameCnt (s : State) : s.resetBlock.frameCnt = 0 := rfl
@[simp] theorem State.resetBlock_discardCnt (s : State) : s.resetBlock.discardCnt = 0 := rfl
@[simp] theorem State.resetBlock_resyncCnt (s : State) : s.resetBlock.resyncCnt = 0 := rfl
@[simp] theorem State.resetBlock_dispValid (s : State) : s.resetBlock.dispValid = false := rfl
@[simp] theorem State.resetBlock_new (s : State) : s.resetBlock.new = false := rfl
@[simp] theorem State.resetBlock_cmdErr (s : State) : s.resetBlock.cmdErr = false := rfl
@[simp] theorem State.resetBlock_ovf (s : State) : s.resetBlock.ovf = false := rfl
@[simp] theorem State.resetBlock_fault (s : State) : s.resetBlock.fault = 0 := rfl
@[simp] theorem State.resetBlock_disp (s : State) : s.resetBlock.disp = Config.freeFrame s.draws := by
  simp only [State.resetBlock]
@[simp] theorem State.resetBlock_out (s : State) : s.resetBlock.out = [] := rfl
@[simp] theorem State.resetBlock_cfg (s : State) : s.resetBlock.cfg = s.configInputs.1 := rfl
@[simp] theorem State.resetBlock_cap (s : State) : s.resetBlock.cap = s.configInputs.2 := rfl
@[simp] theorem State.resetBlock_newConfig (s : State) : s.resetBlock.newConfig = none := rfl
@[simp] theorem State.resetBlock_resetIn (s : State) : s.resetBlock.resetIn = s.resetIn := rfl
@[simp] theorem State.resetBlock_cPort (s : State) : s.resetBlock.cPort = s.cPort := rfl
@[simp] theorem State.resetBlock_oPort (s : State) : s.resetBlock.oPort = s.oPort := rfl
@[simp] theorem State.resetBlock_resp (s : State) : s.resetBlock.resp = none := rfl
@[simp] theorem State.resetBlock_port (s : State) : s.resetBlock.port = s.port := rfl
@[simp] theorem State.resetBlock_draws (s : State) : s.resetBlock.draws = s.draws + 1 := rfl

/-! ### raise: what it leaves alone -/

@[simp] theorem State.raise_buf (s : State) (e : Exc) : (s.raise e).buf = s.buf := by
  cases e <;> rfl
@[simp] theorem State.raise_sync (s : State) (e : Exc) : (s.raise e).sync = s.sync := by
  cases e <;> rfl
@[simp] theorem State.raise_pos (s : State) (e : Exc) : (s.raise e).pos = s.pos := by
  cases e <;> rfl
@[simp] theorem State.raise_pin (s : State) (e : Exc) : (s.raise e).pin = s.pin := by
  cases e <;> rfl
@[simp] theorem State.raise_ie (s : State) (e : Exc) : (s.raise e).ie = s.ie := by
  cases e <;> rfl
@[simp] theorem State.raise_prMin (s : State) (e : Exc) : (s.raise e).prMin = s.prMin := by
  cases e <;> rfl
@[simp] theorem State.raise_prMax (s : State) (e : Exc) : (s.raise e).prMax = s.prMax := by
  cases e <;> rfl
@[simp] theorem State.raise_frameCnt (s : State) (e : Exc) : (s.raise e).frameCnt = s.frameCnt := by
  cases e <;> rfl
@[simp] theorem State.raise_discardCnt (s : State) (e : Exc) : (s.raise e).discardCnt = s.discardCnt := by
  cases e <;> rfl
@[simp] theorem State.raise_resyncCnt (s : State) (e : Exc) : (s.raise e).resyncCnt = s.resyncCnt := by
  cases e <;> rfl
@[simp] theorem State.raise_dispValid (s : State) (e : Exc) : (s.raise e).dispValid = s.dispValid := by
  cases e <;> rfl
@[simp] theorem State.raise_new (s : State) (e : Exc) : (s.raise e).new = s.new := by
  cases e <;> rfl
@[simp] theorem State.raise_ovf (s : State) (e : Exc) : (s.raise e).ovf = s.ovf := by
  cases e <;> rfl
@[simp] theorem State.raise_disp (s : State) (e : Exc) : (s.raise e).disp = s.disp := by
  cases e <;> rfl
@[simp] theorem State.raise_out (s : State) (e : Exc) : (s.raise e).out = s.out := by
  cases e <;> rfl
@[simp] theorem State.raise_cfg (s : State) (e : Exc) : (s.raise e).cfg = s.cfg := by
  cases e <;> rfl
@[simp] theorem State.raise_cap (s : State) (e : Exc) : (s.raise e).cap = s.cap := by
  cases e <;> rfl
@[simp] theorem State.raise_newConfig (s : State) (e : Exc) : (s.raise e).newConfig = s.newConfig := by
  cases e <;> rfl
@[simp] theorem State.raise_resetIn (s : State) (e : Exc) : (s.raise e).resetIn = s.resetIn := by
  cases e <;> rfl
@[simp] theorem State.raise_cPort (s : State) (e : Exc) : (s.raise e).cPort = s.cPort := by
  cases e <;> rfl
@[simp] theorem State.raise_oPort (s : State) (e : Exc) : (s.raise e).oPort = s.oPort := by
  cases e <;> rfl
@[simp] theorem State.raise_port (s : State) (e : Exc) : (s.raise e).port = s.port := by
  cases e <;> rfl
@[simp] theorem State.raise_draws (s : State) (e : Exc) : (s.raise e).draws = s.draws := by
  cases e <;> rfl

/-! ### writeReg: what it leaves alone -/

@[simp] theorem State.writeReg_buf (s : State) (r : WritableReg) (v : Sample) : (s.writeReg r v).buf = s.buf := by
  cases r <;> rfl
@[simp] theorem State.writeReg_sync (s : State) (r : WritableReg) (v : Sample) : (s.writeReg r v).sync = s.sync := by
  cases r <;> rfl
@[simp] theorem State.writeReg_pos (s : State) (r : WritableReg) (v : Sample) : (s.writeReg r v).pos = s.pos := by
  cases r <;> rfl
@[simp] theorem State.writeReg_frameCnt (s : State) (r : WritableReg) (v : Sample) : (s.writeReg r v).frameCnt = s.frameCnt := by
  cases r <;> rfl
@[simp] theorem State.writeReg_discardCnt (s : State) (r : WritableReg) (v : Sample) : (s.writeReg r v).discardCnt = s.discardCnt := by
  cases r <;> rfl
@[simp] theorem State.writeReg_resyncCnt (s : State) (r : WritableReg) (v : Sample) : (s.writeReg r v).resyncCnt = s.resyncCnt := by
  cases r <;> rfl
@[simp] theorem State.writeReg_dispValid (s : State) (r : WritableReg) (v : Sample) : (s.writeReg r v).dispValid = s.dispValid := by
  cases r <;> rfl
@[simp] theorem State.writeReg_new (s : State) (r : WritableReg) (v : Sample) : (s.writeReg r v).new = s.new := by
  cases r <;> rfl
@[simp] theorem State.writeReg_cmdErr (s : State) (r : WritableReg) (v : Sample) : (s.writeReg r v).cmdErr = s.cmdErr := by
  cases r <;> rfl
@[simp] theorem State.writeReg_ovf (s : State) (r : WritableReg) (v : Sample) : (s.writeReg r v).ovf = s.ovf := by
  cases r <;> rfl
@[simp] theorem State.writeReg_fault (s : State) (r : WritableReg) (v : Sample) : (s.writeReg r v).fault = s.fault := by
  cases r <;> rfl
@[simp] theorem State.writeReg_disp (s : State) (r : WritableReg) (v : Sample) : (s.writeReg r v).disp = s.disp := by
  cases r <;> rfl
@[simp] theorem State.writeReg_out (s : State) (r : WritableReg) (v : Sample) : (s.writeReg r v).out = s.out := by
  cases r <;> rfl
@[simp] theorem State.writeReg_cfg (s : State) (r : WritableReg) (v : Sample) : (s.writeReg r v).cfg = s.cfg := by
  cases r <;> rfl
@[simp] theorem State.writeReg_cap (s : State) (r : WritableReg) (v : Sample) : (s.writeReg r v).cap = s.cap := by
  cases r <;> rfl
@[simp] theorem State.writeReg_newConfig (s : State) (r : WritableReg) (v : Sample) : (s.writeReg r v).newConfig = s.newConfig := by
  cases r <;> rfl
@[simp] theorem State.writeReg_resetIn (s : State) (r : WritableReg) (v : Sample) : (s.writeReg r v).resetIn = s.resetIn := by
  cases r <;> rfl
@[simp] theorem State.writeReg_cPort (s : State) (r : WritableReg) (v : Sample) : (s.writeReg r v).cPort = s.cPort := by
  cases r <;> rfl
@[simp] theorem State.writeReg_oPort (s : State) (r : WritableReg) (v : Sample) : (s.writeReg r v).oPort = s.oPort := by
  cases r <;> rfl
@[simp] theorem State.writeReg_resp (s : State) (r : WritableReg) (v : Sample) : (s.writeReg r v).resp = s.resp := by
  cases r <;> rfl
@[simp] theorem State.writeReg_port (s : State) (r : WritableReg) (v : Sample) : (s.writeReg r v).port = s.port := by
  cases r <;> rfl
@[simp] theorem State.writeReg_draws (s : State) (r : WritableReg) (v : Sample) : (s.writeReg r v).draws = s.draws := by
  cases r <;> rfl

/-! ### updateRange: what it leaves alone -/

@[simp] theorem State.updateRange_buf (s : State) (t : List Sample) : (s.updateRange t).buf = s.buf := by
  unfold State.updateRange; split <;> rfl
@[simp] theorem State.updateRange_sync (s : State) (t : List Sample) : (s.updateRange t).sync = s.sync := by
  unfold State.updateRange; split <;> rfl
@[simp] theorem State.updateRange_pos (s : State) (t : List Sample) : (s.updateRange t).pos = s.pos := by
  unfold State.updateRange; split <;> rfl
@[simp] theorem State.updateRange_pin (s : State) (t : List Sample) : (s.updateRange t).pin = s.pin := by
  unfold State.updateRange; split <;> rfl
@[simp] theorem State.updateRange_ie (s : State) (t : List Sample) : (s.updateRange t).ie = s.ie := by
  unfold State.updateRange; split <;> rfl
@[simp] theorem State.updateRange_frameCnt (s : State) (t : List Sample) : (s.updateRange t).frameCnt = s.frameCnt := by
  unfold State.updateRange; split <;> rfl
@[simp] theorem State.updateRange_discardCnt (s : State) (t : List Sample) : (s.updateRange t).discardCnt = s.discardCnt := by
  unfold State.updateRange; split <;> rfl
@[simp] theorem State.updateRange_resyncCnt (s : State) (t : List Sample) : (s.updateRange t).resyncCnt = s.resyncCnt := by
  unfold State.updateRange; split <;> rfl
@[simp] theorem State.updateRange_dispValid (s : State) (t : List Sample) : (s.updateRange t).dispValid = s.dispValid := by
  unfold State.updateRange; split <;> rfl
@[simp] theorem State.updateRange_new (s : State) (t : List Sample) : (s.updateRange t).new = s.new := by
  unfold State.updateRange; split <;> rfl
@[simp] theorem State.updateRange_cmdErr (s : State) (t : List Sample) : (s.updateRange t).cmdErr = s.cmdErr := by
  unfold State.updateRange; split <;> rfl
@[simp] theorem State.updateRange_ovf (s : State) (t : List Sample) : (s.updateRange t).ovf = s.ovf := by
  unfold State.updateRange; split <;> rfl
@[simp] theorem State.updateRange_fault (s : State) (t : List Sample) : (s.updateRange t).fault = s.fault := by
  unfold State.updateRange; split <;> rfl
@[simp] theorem State.updateRange_disp (s : State) (t : List Sample) : (s.updateRange t).disp = s.disp := by
  unfold State.updateRange; split <;> rfl
@[simp] theorem State.updateRange_out (s : State) (t : List Sample) : (s.updateRange t).out = s.out := by
  unfold State.updateRange; split <;> rfl
@[simp] theorem State.updateRange_cfg (s : State) (t : List Sample) : (s.updateRange t).cfg = s.cfg := by
  unfold State.updateRange; split <;> rfl
@[simp] theorem State.updateRange_cap (s : State) (t : List Sample) : (s.updateRange t).cap = s.cap := by
  unfold State.updateRange; split <;> rfl
@[simp] theorem State.updateRange_newConfig (s : State) (t : List Sample) : (s.updateRange t).newConfig = s.newConfig := by
  unfold State.updateRange; split <;> rfl
@[simp] theorem State.updateRange_resetIn (s : State) (t : List Sample) : (s.updateRange t).resetIn = s.resetIn := by
  unfold State.updateRange; split <;> rfl
@[simp] theorem State.updateRange_cPort (s : State) (t : List Sample) : (s.updateRange t).cPort = s.cPort := by
  unfold State.updateRange; split <;> rfl
@[simp] theorem State.updateRange_oPort (s : State) (t : List Sample) : (s.updateRange t).oPort = s.oPort := by
  unfold State.updateRange; split <;> rfl
@[simp] theorem State.updateRange_resp (s : State) (t : List Sample) : (s.updateRange t).resp = s.resp := by
  unfold State.updateRange; split <;> rfl
@[simp] theorem State.updateRange_port (s : State) (t : List Sample) : (s.updateRange t).port = s.port := by
  unfold State.updateRange; split <;> rfl
@[simp] theorem State.updateRange_draws (s : State) (t : List Sample) : (s.updateRange t).draws = s.draws := by
  unfold State.updateRange; split <;> rfl

/-! ### countResync: what it leaves alone -/

@[simp] theorem State.countResync_buf (s : State) : s.countResync.buf = s.buf := by
  unfold State.countResync; split <;> rfl
@[simp] theorem State.countResync_sync (s : State) : s.countResync.sync = s.sync := by
  unfold State.countResync; split <;> rfl
@[simp] theorem State.countResync_pos (s : State) : s.countResync.pos = s.pos := by
  unfold State.countResync; split <;> rfl
@[simp] theorem State.countResync_pin (s : State) : s.countResync.pin = s.pin := by
  unfold State.countResync; split <;> rfl
@[simp] theorem State.countResync_ie (s : State) : s.countResync.ie = s.ie := by
  unfold State.countResync; split <;> rfl
@[simp] theorem State.countResync_prMin (s : State) : s.countResync.prMin = s.prMin := by
  unfold State.countResync; split <;> rfl
@[simp] theorem State.countResync_prMax (s : State) : s.countResync.prMax = s.prMax := by
  unfold State.countResync; split <;> rfl
@[simp] theorem State.countResync_frameCnt (s : State) : s.countResync.frameCnt = s.frameCnt := by
  unfold State.countResync; split <;> rfl
@[simp] theorem State.countResync_discardCnt (s : State) : s.countResync.discardCnt = s.discardCnt := by
  unfold State.countResync; split <;> rfl
@[simp] theorem State.countResync_dispValid (s : State) : s.countResync.dispValid = s.dispValid := by
  unfold State.countResync; split <;> rfl
@[simp] theorem State.countResync_new (s : State) : s.countResync.new = s.new := by
  unfold State.countResync; split <;> rfl
@[simp] theorem State.countResync_cmdErr (s : State) : s.countResync.cmdErr = s.cmdErr := by
  unfold State.countResync; split <;> rfl
@[simp] theorem State.countResync_ovf (s : State) : s.countResync.ovf = s.ovf := by
  unfold State.countResync; split <;> rfl
@[simp] theorem State.countResync_fault (s : State) : s.countResync.fault = s.fault := by
  unfold State.countResync; split <;> rfl
@[simp] theorem State.countResync_disp (s : State) : s.countResync.disp = s.disp := by
  unfold State.countResync; split <;> rfl
@[simp] theorem State.countResync_out (s : State) : s.countResync.out = s.out := by
  unfold State.countResync; split <;> rfl
@[simp] theorem State.countResync_cfg (s : State) : s.countResync.cfg = s.cfg := by
  unfold State.countResync; split <;> rfl
@[simp] theorem State.countResync_cap (s : State) : s.countResync.cap = s.cap := by
  unfold State.countResync; split <;> rfl
@[simp] theorem State.countResync_newConfig (s : State) : s.countResync.newConfig = s.newConfig := by
  unfold State.countResync; split <;> rfl
@[simp] theorem State.countResync_resetIn (s : State) : s.countResync.resetIn = s.resetIn := by
  unfold State.countResync; split <;> rfl
@[simp] theorem State.countResync_cPort (s : State) : s.countResync.cPort = s.cPort := by
  unfold State.countResync; split <;> rfl
@[simp] theorem State.countResync_oPort (s : State) : s.countResync.oPort = s.oPort := by
  unfold State.countResync; split <;> rfl
@[simp] theorem State.countResync_resp (s : State) : s.countResync.resp = s.resp := by
  unfold State.countResync; split <;> rfl
@[simp] theorem State.countResync_port (s : State) : s.countResync.port = s.port := by
  unfold State.countResync; split <;> rfl
@[simp] theorem State.countResync_draws (s : State) : s.countResync.draws = s.draws := by
  unfold State.countResync; split <;> rfl

/-! ### discardOldest: what it leaves alone -/

@[simp] theorem State.discardOldest_sync (s : State) : s.discardOldest.sync = s.sync := by
  unfold State.discardOldest; split <;> rfl
@[simp] theorem State.discardOldest_pin (s : State) : s.discardOldest.pin = s.pin := by
  unfold State.discardOldest; split <;> rfl
@[simp] theorem State.discardOldest_ie (s : State) : s.discardOldest.ie = s.ie := by
  unfold State.discardOldest; split <;> rfl
@[simp] theorem State.discardOldest_prMin (s : State) : s.discardOldest.prMin = s.prMin := by
  unfold State.discardOldest; split <;> rfl
@[simp] theorem State.discardOldest_prMax (s : State) : s.discardOldest.prMax = s.prMax := by
  unfold State.discardOldest; split <;> rfl
@[simp] theorem State.discardOldest_frameCnt (s : State) : s.discardOldest.frameCnt = s.frameCnt := by
  unfold State.discardOldest; split <;> rfl
@[simp] theorem State.discardOldest_resyncCnt (s : State) : s.discardOldest.resyncCnt = s.resyncCnt := by
  unfold State.discardOldest; split <;> rfl
@[simp] theorem State.discardOldest_dispValid (s : State) : s.discardOldest.dispValid = s.dispValid := by
  unfold State.discardOldest; split <;> rfl
@[simp] theorem State.discardOldest_new (s : State) : s.discardOldest.new = s.new := by
  unfold State.discardOldest; split <;> rfl
@[simp] theorem State.discardOldest_cmdErr (s : State) : s.discardOldest.cmdErr = s.cmdErr := by
  unfold State.discardOldest; split <;> rfl
@[simp] theorem State.discardOldest_ovf (s : State) : s.discardOldest.ovf = s.ovf := by
  unfold State.discardOldest; split <;> rfl
@[simp] theorem State.discardOldest_fault (s : State) : s.discardOldest.fault = s.fault := by
  unfold State.discardOldest; split <;> rfl
@[simp] theorem State.discardOldest_disp (s : State) : s.discardOldest.disp = s.disp := by
  unfold State.discardOldest; split <;> rfl
@[simp] theorem State.discardOldest_cfg (s : State) : s.discardOldest.cfg = s.cfg := by
  unfold State.discardOldest; split <;> rfl
@[simp] theorem State.discardOldest_cap (s : State) : s.discardOldest.cap = s.cap := by
  unfold State.discardOldest; split <;> rfl
@[simp] theorem State.discardOldest_newConfig (s : State) : s.discardOldest.newConfig = s.newConfig := by
  unfold State.discardOldest; split <;> rfl
@[simp] theorem State.discardOldest_resetIn (s : State) : s.discardOldest.resetIn = s.resetIn := by
  unfold State.discardOldest; split <;> rfl
@[simp] theorem State.discardOldest_cPort (s : State) : s.discardOldest.cPort = s.cPort := by
  unfold State.discardOldest; split <;> rfl
@[simp] theorem State.discardOldest_oPort (s : State) : s.discardOldest.oPort = s.oPort := by
  unfold State.discardOldest; split <;> rfl
@[simp] theorem State.discardOldest_resp (s : State) : s.discardOldest.resp = s.resp := by
  unfold State.discardOldest; split <;> rfl
@[simp] theorem State.discardOldest_port (s : State) : s.discardOldest.port = s.port := by
  unfold State.discardOldest; split <;> rfl
@[simp] theorem State.discardOldest_draws (s : State) : s.discardOldest.draws = s.draws := by
  unfold State.discardOldest; split <;> rfl

/-! ### resync: what it leaves alone -/

@[simp] theorem State.resync_pin (s : State) : s.resync.pin = s.pin := by
  simp [State.resync]
@[simp] theorem State.resync_ie (s : State) : s.resync.ie = s.ie := by
  simp [State.resync]
@[simp] theorem State.resync_prMin (s : State) : s.resync.prMin = s.prMin := by
  simp [State.resync]
@[simp] theorem State.resync_prMax (s : State) : s.resync.prMax = s.prMax := by
  simp [State.resync]
@[simp] theorem State.resync_frameCnt (s : State) : s.resync.frameCnt = s.frameCnt := by
  simp [State.resync]
@[simp] theorem State.resync_dispValid (s : State) : s.resync.dispValid = s.dispValid := by
  simp [State.resync]
@[simp] theorem State.resync_new (s : State) : s.resync.new = s.new := by
  simp [State.resync]
@[simp] theorem State.resync_cmdErr (s : State) : s.resync.cmdErr = s.cmdErr := by
  simp [State.resync]
@[simp] theorem State.resync_ovf (s : State) : s.resync.ovf = s.ovf := by
  simp [State.resync]
@[simp] theorem State.resync_fault (s : State) : s.resync.fault = s.fault := by
  simp [State.resync]
@[simp] theorem State.resync_disp (s : State) : s.resync.disp = s.disp := by
  simp [State.resync]
@[simp] theorem State.resync_cfg (s : State) : s.resync.cfg = s.cfg := by
  simp [State.resync]
@[simp] theorem State.resync_cap (s : State) : s.resync.cap = s.cap := by
  simp [State.resync]
@[simp] theorem State.resync_newConfig (s : State) : s.resync.newConfig = s.newConfig := by
  simp [State.resync]
@[simp] theorem State.resync_resetIn (s : State) : s.resync.resetIn = s.resetIn := by
  simp [State.resync]
@[simp] theorem State.resync_cPort (s : State) : s.resync.cPort = s.cPort := by
  simp [State.resync]
@[simp] theorem State.resync_oPort (s : State) : s.resync.oPort = s.oPort := by
  simp [State.resync]
@[simp] theorem State.resync_resp (s : State) : s.resync.resp = s.resp := by
  simp [State.resync]
@[simp] theorem State.resync_port (s : State) : s.resync.port = s.port := by
  simp [State.resync]
@[simp] theorem State.resync_draws (s : State) : s.resync.draws = s.draws := by
  simp [State.resync]

/-! ### acceptByte: what it leaves alone -/

@[simp] theorem State.acceptByte_sync (s : State) (b : Byte) : (s.acceptByte b).sync = s.sync := by
  unfold State.acceptByte; split <;> simp
@[simp] theorem State.acceptByte_pin (s : State) (b : Byte) : (s.acceptByte b).pin = s.pin := by
  unfold State.acceptByte; split <;> simp
@[simp] theorem State.acceptByte_ie (s : State) (b : Byte) : (s.acceptByte b).ie = s.ie := by
  unfold State.acceptByte; split <;> simp
@[simp] theorem State.acceptByte_prMin (s : State) (b : Byte) : (s.acceptByte b).prMin = s.prMin := by
  unfold State.acceptByte; split <;> simp
@[simp] theorem State.acceptByte_prMax (s : State) (b : Byte) : (s.acceptByte b).prMax = s.prMax := by
  unfold State.acceptByte; split <;> simp
@[simp] theorem State.acceptByte_frameCnt (s : State) (b : Byte) : (s.acceptByte b).frameCnt = s.frameCnt := by
  unfold State.acceptByte; split <;> simp
@[simp] theorem State.acceptByte_resyncCnt (s : State) (b : Byte) : (s.acceptByte b).resyncCnt = s.resyncCnt := by
  unfold State.acceptByte; split <;> simp
@[simp] theorem State.acceptByte_dispValid (s : State) (b : Byte) : (s.acceptByte b).dispValid = s.dispValid := by
  unfold State.acceptByte; split <;> simp
@[simp] theorem State.acceptByte_new (s : State) (b : Byte) : (s.acceptByte b).new = s.new := by
  unfold State.acceptByte; split <;> simp
@[simp] theorem State.acceptByte_cmdErr (s : State) (b : Byte) : (s.acceptByte b).cmdErr = s.cmdErr := by
  unfold State.acceptByte; split <;> simp
@[simp] theorem State.acceptByte_fault (s : State) (b : Byte) : (s.acceptByte b).fault = s.fault := by
  unfold State.acceptByte; split <;> simp
@[simp] theorem State.acceptByte_disp (s : State) (b : Byte) : (s.acceptByte b).disp = s.disp := by
  unfold State.acceptByte; split <;> simp
@[simp] theorem State.acceptByte_cfg (s : State) (b : Byte) : (s.acceptByte b).cfg = s.cfg := by
  unfold State.acceptByte; split <;> simp
@[simp] theorem State.acceptByte_cap (s : State) (b : Byte) : (s.acceptByte b).cap = s.cap := by
  unfold State.acceptByte; split <;> simp
@[simp] theorem State.acceptByte_newConfig (s : State) (b : Byte) : (s.acceptByte b).newConfig = s.newConfig := by
  unfold State.acceptByte; split <;> simp
@[simp] theorem State.acceptByte_resetIn (s : State) (b : Byte) : (s.acceptByte b).resetIn = s.resetIn := by
  unfold State.acceptByte; split <;> simp
@[simp] theorem State.acceptByte_cPort (s : State) (b : Byte) : (s.acceptByte b).cPort = s.cPort := by
  unfold State.acceptByte; split <;> simp
@[simp] theorem State.acceptByte_oPort (s : State) (b : Byte) : (s.acceptByte b).oPort = s.oPort := by
  unfold State.acceptByte; split <;> simp
@[simp] theorem State.acceptByte_resp (s : State) (b : Byte) : (s.acceptByte b).resp = s.resp := by
  unfold State.acceptByte; split <;> simp
@[simp] theorem State.acceptByte_port (s : State) (b : Byte) : (s.acceptByte b).port = s.port := by
  unfold State.acceptByte; split <;> simp
@[simp] theorem State.acceptByte_draws (s : State) (b : Byte) : (s.acceptByte b).draws = s.draws := by
  unfold State.acceptByte; split <;> simp

/-! ### the fields the conditional updates write -/

@[simp] theorem State.resync_sync (s : State) : s.resync.sync = .seeking := rfl

theorem State.resync_resyncCnt (s : State) :
    s.resync.resyncCnt = if s.sync = .locked then s.resyncCnt + 1 else s.resyncCnt := by
  simp only [State.resync, State.discardOldest_resyncCnt, State.countResync]
  split <;> rfl

theorem State.discardOldest_cons (s : State) (b : Byte) (rest : List Byte) (h : s.buf = b :: rest) :
    s.discardOldest =
      { s with buf := rest, pos := s.pos + 1, discardCnt := s.discardCnt + 1, out := s.out ++ [.discard b] } := by
  simp [State.discardOldest, h]

theorem State.updateRange_pinned (s : State) (t : List Sample) (h : s.pin = true) : s.updateRange t = s := by
  simp [State.updateRange, h]

theorem State.updateRange_auto (s : State) (t : List Sample) (h : s.pin = false) :
    s.updateRange t = { s with prMin := frameMin t, prMax := frameMax t } := by
  simp [State.updateRange, h]

end Sys2Proof.Machine
end

