-- ==== Sys2Proof/Laws/Ops.lean ====
section
/-! SUPPORT. One lemma per shared operation that says once what it can do; the proofs cite these instead of
unfolding the operations. -/

namespace Sys2Proof.Laws

open Sys2Proof Sys2Proof.Machine

theorem frameBytes_eq : frameBytes = 2048 := rfl

theorem nSamples_eq : nSamples = 1024 := rfl

/-! ### The decoder of samples and the mapping -/

theorem samples_length (o : ByteOrder) (w : List Byte) : (samples o w).length = w.length / 2 := by
  induction w using samples.induct with
  | case1 first second rest ih => simp only [samples, List.length_cons, ih]; omega
  | case2 short h =>
    match short, h with
    | [], _ => rfl
    | [_], _ => simp [samples]
    | a :: b :: r, h => exact absurd rfl (h a b r)

/-- Sample `i` of the decoded list is `sample(W, i)` of R65. -/
theorem samples_getElem? (o : ByteOrder) (w : List Byte) (i : Nat) (h : 2 * i + 1 < w.length) :
    (samples o w)[i]? = some (sampleAt o w i) := by
  induction w using samples.induct generalizing i with
  | case1 first second rest ih =>
    cases i with
    | zero => simp [samples, sampleAt]
    | succ j =>
      have hj : 2 * j + 1 < rest.length := by simp at h; omega
      simp only [samples, List.getElem?_cons_succ, ih j hj, sampleAt]
      rfl
  | case2 short hs =>
    match short, hs with
    | [], _ => simp at h
    | [_], _ => simp at h
    | a :: b :: r, hs => exact absurd rfl (hs a b r)

theorem decodeFrame_ok (c : Cfg) (w : List Byte) (h : w.length = frameBytes) :
    decodeFrame c w = .ok (samples c.byteOrder w) := by
  simp only [decodeFrame, h, if_true]

theorem decodeFrame_lengthFault (c : Cfg) (w : List Byte) (h : w.length ≠ frameBytes) :
    decodeFrame c w = .error (.lengthFault w.length) := by
  simp only [decodeFrame, h, if_false]

@[simp] theorem mapFrame_length (c : Cfg) (t : List Sample) (lo hi : Sample) :
    (mapFrame c t lo hi).length = t.length := by
  simp only [mapFrame, List.length_map]

@[simp] theorem freeFrame_length (n : Nat) : (Config.freeFrame n).length = nSamples := by
  simp only [Config.freeFrame, List.length_map, List.length_range]

/-! ### The checks of the dispatch -/

theorem requireCPort_c (s : State) (r : Result) (h : s.port = .c) : requireCPort s r = r := by
  simp only [requireCPort, h]

theorem requireCPort_o (s : State) (r : Result) (h : s.port = .o) :
    requireCPort s r = .next (s.raise .illegalCommand) := by
  simp only [requireCPort, h]

theorem requireRunning_running (s : State) (r : Result) (h : s.fault = 0) : requireRunning s r = r := by
  simp [requireRunning, State.halted, h]

theorem requireRunning_halted (s : State) (r : Result) (h : s.fault ≠ 0) :
    requireRunning s r = .next (s.raise .halted) := by
  have hh : s.halted = true := by simpa [State.halted] using h
  simp only [requireRunning, hh, if_true]

/-! ### PUBLISH -/

theorem publish_ok (s : State) (w : List Byte) (h : w.length = frameBytes) :
    s.publish w =
      .ok ((s.updateRange (samples s.cfg.byteOrder w)).showFrame w (samples s.cfg.byteOrder w)) := by
  simp only [State.publish, decodeFrame_ok s.cfg w h]

theorem publish_error (s : State) (w : List Byte) (h : w.length ≠ frameBytes) :
    s.publish w = .error (.lengthFault w.length) := by
  simp only [State.publish, decodeFrame_lengthFault s.cfg w h]

/-! ### The extraction loop -/

theorem window_length (s : State) (h : frameBytes ≤ s.buf.length) : s.window.length = frameBytes := by
  simp only [State.window, List.length_take]
  omega

/-- The state after a pass on a valid window: extracted, the range updated, shown. -/
def published (s : State) : State :=
  (s.lockOnFrame.updateRange (samples s.cfg.byteOrder s.window)).showFrame s.window
    (samples s.cfg.byteOrder s.window)

/-- All that a pass of the loop can do on a `BUF` that holds a window: publish it, or discard one byte. No
pass raises an exception. -/
theorem loopBody_cases (s : State) (h : frameBytes ≤ s.buf.length) :
    (valid s.cfg s.window = true ∧ s.loopBody = .ended (published s) 1) ∨
      (valid s.cfg s.window = false ∧ s.loopBody = .ended s.resync 0) := by
  cases hv : valid s.cfg s.window with
  | true =>
    left
    refine ⟨rfl, ?_⟩
    have hp := publish_ok s.lockOnFrame s.window (window_length s h)
    simp only [State.lockOnFrame_cfg] at hp
    simp only [State.loopBody, hv, if_true, hp, published]
  | false =>
    right
    exact ⟨rfl, by simp [State.loopBody, hv]⟩

theorem published_buf (s : State) : (published s).buf = s.buf.drop frameBytes := by
  simp [published]

theorem resync_buf (s : State) : s.resync.buf = s.buf.tail := by
  cases h : s.buf with
  | nil => simp [State.resync, State.discardOldest, h]
  | cons b rest => simp [State.resync, State.discardOldest, h]

/-- A pass shortens `BUF`. -/
theorem loopBody_shortens (s s' : State) (k : Nat) (h : frameBytes ≤ s.buf.length)
    (hb : s.loopBody = .ended s' k) : s'.buf.length < s.buf.length := by
  rcases loopBody_cases s h with ⟨-, he⟩ | ⟨-, he⟩ <;> rw [he] at hb <;> cases hb
  · rw [published_buf, List.length_drop]; rw [frameBytes_eq] at *; omega
  · rw [resync_buf, List.length_tail]; rw [frameBytes_eq] at *; omega

/-- On a `BUF` shorter than a frame the loop is over, with any fuel. -/
theorem drain_stop (fuel : Nat) (s : State) (n : Nat) (h : s.buf.length < frameBytes) :
    State.drain fuel s n = .done s n := by
  cases fuel with
  | zero => rfl
  | succ f => simp only [State.drain, if_neg (Nat.not_le.2 h)]

/-- On a `BUF` that holds a window the loop makes a pass. -/
theorem drain_pass (fuel : Nat) (s s' : State) (n k : Nat) (h : frameBytes ≤ s.buf.length)
    (hb : s.loopBody = .ended s' k) : State.drain (fuel + 1) s n = State.drain fuel s' (n + k) := by
  simp only [State.drain, if_pos h, hb]

/-- With fuel for its length the loop ends with fewer than `FRAME_BYTES` bytes left, and raises nothing. -/
theorem drain_done (fuel : Nat) (s : State) (n : Nat) (h : s.buf.length ≤ fuel) :
    ∃ t m, State.drain fuel s n = .done t (n + m) ∧ t.buf.length < frameBytes := by
  induction fuel generalizing s n with
  | zero => exact ⟨s, 0, rfl, by rw [frameBytes_eq]; omega⟩
  | succ f ih =>
    by_cases hl : frameBytes ≤ s.buf.length
    · obtain ⟨s', k, hb⟩ : ∃ s' k, s.loopBody = .ended s' k := by
        rcases loopBody_cases s hl with ⟨-, he⟩ | ⟨-, he⟩ <;> exact ⟨_, _, he⟩
      have hs := loopBody_shortens s s' k hl hb
      obtain ⟨t, m, ht, hlt⟩ := ih s' (n + k) (by omega)
      exact ⟨t, k + m, by simp only [State.drain, hl, if_true, hb, ht, Nat.add_assoc], hlt⟩
    · exact ⟨s, 0, by simp only [State.drain, hl, if_false, Nat.add_zero], by omega⟩

/-- What every pass keeps, the loop keeps. -/
theorem drain_keeps (P : State → Prop)
    (hP : ∀ s s' k, P s → frameBytes ≤ s.buf.length → s.loopBody = .ended s' k → P s')
    (fuel : Nat) (s t : State) (n m : Nat) (hs : P s) (h : State.drain fuel s n = .done t m) : P t := by
  induction fuel generalizing s n with
  | zero => cases h; exact hs
  | succ f ih =>
    by_cases hl : frameBytes ≤ s.buf.length
    · obtain ⟨s', k, hb⟩ : ∃ s' k, s.loopBody = .ended s' k := by
        rcases loopBody_cases s hl with ⟨-, he⟩ | ⟨-, he⟩ <;> exact ⟨_, _, he⟩
      simp only [State.drain, hl, if_true, hb] at h
      exact ih s' (n + k) (hP s s' k hs hl hb) h
    · simp only [State.drain, hl, if_false] at h
      cases h; exact hs

/-- Below the cap a byte is appended and nothing else happens. -/
theorem acceptByte_below (s : State) (b : Byte) (h : s.buf.length ≠ s.cap.toNat) :
    s.acceptByte b = s.appendByte b := by
  simp only [State.acceptByte, if_neg h]

/-- At the cap the oldest byte is dropped first and `OVF` is set. -/
theorem acceptByte_atCap (s : State) (b : Byte) (h : s.buf.length = s.cap.toNat) :
    s.acceptByte b = { s.discardOldest with ovf := true }.appendByte b := by
  simp only [State.acceptByte, if_pos h]

/-- A capacity in its range is at least a frame. -/
theorem frameBytes_le_of_capOk (cap : BitVec 16) (h : capOk cap = true) : frameBytes ≤ cap.toNat := by
  simpa only [capOk, decide_eq_true_eq] using h

/-- PUSH that does not complete a window. -/
theorem pushByte_short (s : State) (b : Byte) (h : (s.acceptByte b).buf.length < frameBytes) :
    s.pushByte b = (s.acceptByte b).respond 0 := by
  simp only [State.pushByte, drain_stop _ _ _ h]
  rfl

/-- PUSH that makes one pass and is left with less than a window. -/
theorem pushByte_onePass (s s' : State) (b : Byte) (k : Nat)
    (h : frameBytes ≤ (s.acceptByte b).buf.length) (hb : (s.acceptByte b).loopBody = .ended s' k)
    (hl : s'.buf.length < frameBytes) : s.pushByte b = s'.respond (BitVec.ofNat 32 k) := by
  obtain ⟨f, hf⟩ : ∃ f, (s.acceptByte b).buf.length = f + 1 :=
    ⟨(s.acceptByte b).buf.length - 1, by rw [frameBytes_eq] at h; omega⟩
  simp only [State.pushByte]
  rw [hf, drain_pass f _ s' 0 k h hb, drain_stop f s' _ hl]
  simp only [Nat.zero_add]

/-- PUSH, once dispatched, always drains to its end and responds (OK, n). -/
theorem pushByte_cases (s : State) (b : Byte) :
    ∃ t n, State.drain (s.acceptByte b).buf.length (s.acceptByte b) 0 = .done t n ∧
      t.buf.length < frameBytes ∧ s.pushByte b = t.respond (BitVec.ofNat 32 n) := by
  obtain ⟨t, m, ht, hl⟩ := drain_done (s.acceptByte b).buf.length (s.acceptByte b) 0 (Nat.le_refl _)
  rw [Nat.zero_add] at ht
  exact ⟨t, m, ht, hl, by simp only [State.pushByte, ht]⟩

/-- What the append keeps, and both kinds of pass, and the response, PUSH keeps: the induction of the
extraction loop, once. -/
theorem pushByte_keeps (P : State → Prop) (s : State) (b : Byte) (ha : P (s.acceptByte b))
    (hpass : ∀ x, P x → frameBytes ≤ x.buf.length → P (published x) ∧ P x.resync)
    (hresp : ∀ x d, P x → P (x.respond d)) : P (s.pushByte b) := by
  obtain ⟨t, n, hd, -, he⟩ := pushByte_cases s b
  rw [he]
  refine hresp t _ (drain_keeps P ?_ _ _ _ _ _ ha hd)
  intro x x' k hx hl hb
  rcases loopBody_cases x hl with ⟨-, h⟩ | ⟨-, h⟩ <;> rw [h] at hb <;> cases hb
  · exact (hpass x hx hl).1
  · exact (hpass x hx hl).2

theorem pushByte_buf_length (s : State) (b : Byte) : (s.pushByte b).buf.length < frameBytes := by
  obtain ⟨t, n, -, hl, he⟩ := pushByte_cases s b
  rw [he, State.respond_buf]
  exact hl

/-! ### The fetch of the next command -/

/-- All that the fetch can do: nothing waits; or the first word of one port is taken. -/
theorem nextCommand_cases (s : State) :
    (s.cPort = [] ∧ s.oPort = [] ∧ s.nextCommand = none) ∨
      (∃ w ws n, s.cPort = w :: ws ∧ s.nextCommand = some (w, (s.setDraws n).takeC ws)) ∨
      (∃ w ws n, s.oPort = w :: ws ∧ s.nextCommand = some (w, (s.setDraws n).takeO ws)) := by
  unfold State.nextCommand
  split
  · exact .inl ⟨‹_›, ‹_›, rfl⟩
  · exact .inr (.inl ⟨_, _, s.draws, ‹_›, rfl⟩)
  · exact .inr (.inr ⟨_, _, s.draws, ‹_›, rfl⟩)
  · split
    · exact .inr (.inl ⟨_, _, s.draws + 1, ‹_›, rfl⟩)
    · exact .inr (.inr ⟨_, _, s.draws + 1, ‹_›, rfl⟩)

/-! ### exec, issue, step -/

/-- A command that answers a next state has been refused by its port, refused by the halted condition,
refused for its address, or has had its own effect. -/
theorem exec_cases (i : Instr) (s t : State) (h : exec i s = .next t) :
    t = s.raise .illegalCommand ∨ t = s.raise .halted ∨
      (s.fault = 0 ∧ s.port = .c ∧
        ((∃ b, i = .push b ∧ t = s.pushByte b) ∨ (i = .flush ∧ t = s.flush) ∨
          (i = .rrst ∧ t = s.resetRange) ∨
          (∃ a v r, i = .wr a v ∧ WritableReg.atAddr a = some r ∧ t = (s.writeReg r v).respond 0))) ∨
      (i = .idle ∧ t = s.respond 0) ∨
      (∃ a r, i = .rd a ∧ Reg.atAddr a = some r ∧ t = s.respond (s.readReg r)) ∨
      (i = .snap ∧ t = { s with new := false }.respondWith .ok (s.snapBits.setWidth 32) (some s.readDisp)) ∨
      (i = .reset ∧ s.port = .c ∧ t = s.resetBlock.respond 0) := by
  have guarded : ∀ body : State, requireCPort s (requireRunning s (.next body)) = .next t →
      t = s.raise .illegalCommand ∨ t = s.raise .halted ∨ (s.fault = 0 ∧ s.port = .c ∧ t = body) := by
    intro body hb
    cases hp : s.port with
    | o => rw [requireCPort_o s _ hp] at hb; cases hb; exact .inl rfl
    | c =>
      rw [requireCPort_c s _ hp] at hb
      by_cases hf : s.fault = 0
      · rw [requireRunning_running s _ hf] at hb; cases hb; exact .inr (.inr ⟨hf, rfl, rfl⟩)
      · rw [requireRunning_halted s _ hf] at hb; cases hb; exact .inr (.inl rfl)
  cases i with
  | idle => cases h; simp
  | push b =>
    rcases guarded _ h with hi | hh | ⟨hf, hp, ht⟩
    · exact .inl hi
    · exact .inr (.inl hh)
    · exact .inr (.inr (.inl ⟨hf, hp, .inl ⟨b, rfl, ht⟩⟩))
  | flush =>
    rcases guarded _ h with hi | hh | ⟨hf, hp, ht⟩
    · exact .inl hi
    · exact .inr (.inl hh)
    · exact .inr (.inr (.inl ⟨hf, hp, .inr (.inl ⟨rfl, ht⟩)⟩))
  | rrst =>
    rcases guarded _ h with hi | hh | ⟨hf, hp, ht⟩
    · exact .inl hi
    · exact .inr (.inl hh)
    · exact .inr (.inr (.inl ⟨hf, hp, .inr (.inr (.inl ⟨rfl, ht⟩))⟩))
  | wr a v =>
    cases hr : WritableReg.atAddr a with
    | none =>
      simp only [exec, execWr, hr] at h
      left
      cases hp : s.port with
      | o => rw [requireCPort_o s _ hp] at h; cases h; rfl
      | c => rw [requireCPort_c s _ hp] at h; cases h; rfl
    | some r =>
      simp only [exec, execWr, hr] at h
      rcases guarded _ h with hi | hh | ⟨hf, hp, ht⟩
      · exact .inl hi
      · exact .inr (.inl hh)
      · exact .inr (.inr (.inl ⟨hf, hp, .inr (.inr (.inr ⟨a, v, r, rfl, hr, ht⟩))⟩))
  | rd a =>
    cases hr : Reg.atAddr a with
    | none => simp only [exec, execRd, hr] at h; cases h; exact .inl rfl
    | some r =>
      simp only [exec, execRd, hr] at h
      cases h
      exact .inr (.inr (.inr (.inr (.inl ⟨a, r, rfl, hr, rfl⟩))))
  | snap => cases h; exact .inr (.inr (.inr (.inr (.inr (.inl ⟨rfl, rfl⟩)))))
  | reset =>
    simp only [exec, execReset] at h
    cases hp : s.port with
    | o => rw [requireCPort_o s _ hp] at h; cases h; exact .inl rfl
    | c =>
      rw [requireCPort_c s _ hp] at h
      cases h
      exact .inr (.inr (.inr (.inr (.inr (.inr ⟨rfl, rfl, rfl⟩)))))

/-- A word that is issued is illegal, or is the command it decodes to. -/
theorem issue_cases (w : Word) (s t : State) (h : issue w s = .next t) :
    t = s.raise .illegalCommand ∨ ∃ i, decode w = .ok i ∧ exec i s = .next t := by
  unfold issue at h
  split at h
  · exact .inr ⟨_, ‹_›, h⟩
  · cases h; exact .inl rfl

/-- All that a step can do: the reset input, nothing, or the issue of a waiting word. -/
theorem step_cases (s t : State) (h : step s = .next t) :
    (s.resetIn = true ∧ t = s.resetByInput) ∨
      (s.resetIn = false ∧ s.cPort = [] ∧ s.oPort = [] ∧ t = s) ∨
      (s.resetIn = false ∧ configOk s.cfg s.cap = true ∧ ∃ w s', s.nextCommand = some (w, s') ∧
        (s.newConfig = none ∨ isResetCommand w s' = true) ∧ issue w s' = .next t) := by
  unfold step at h
  split at h
  · cases h; exact .inl ⟨‹_›, rfl⟩
  · next hr =>
    have hr' : s.resetIn = false := by simpa using hr
    split at h
    · next hc =>
      cases hn : s.nextCommand with
      | none =>
        rw [hn] at h
        cases h
        rcases nextCommand_cases s with ⟨h1, h2, -⟩ | ⟨w, ws, n, -, hm⟩ | ⟨w, ws, n, -, hm⟩
        · exact .inr (.inl ⟨hr', h1, h2, rfl⟩)
        · rw [hn] at hm; cases hm
        · rw [hn] at hm; cases hm
      | some p =>
        obtain ⟨w, s'⟩ := p
        rw [hn] at h
        simp only at h
        split at h
        · next hs =>
          refine .inr (.inr ⟨hr', hc, w, s', rfl, ?_, h⟩)
          simpa [State.inputsStable] using hs
        · cases h
    · cases h

end Sys2Proof.Laws
end

