-- ==== Sys2Proof/Laws/Decode.lean ====
section
/-! SUPPORT. What the opcode map and the decoder can do (30_encoding.md R82, R87). -/

namespace Sys2Proof.Laws

open Sys2Proof

theorem mask_covers_op : ∀ r ∈ opcodeMap, Word.op r.mask = 0xF#4 := by decide

theorem pattern_op_injective :
    ∀ r ∈ opcodeMap, ∀ q ∈ opcodeMap, ¬ q = r → Word.op q.pattern ≠ Word.op r.pattern := by decide

/-- A row selects only words whose `OP` is the row's: every mask of the map covers bits 31:28. -/
theorem selects_op (r : Row) (w : Word) (hr : r ∈ opcodeMap) (h : r.selects w = true) :
    Word.op w = Word.op r.pattern := by
  have hm := mask_covers_op r hr
  have hw : w &&& r.mask = r.pattern := by simpa [Row.selects] using h
  rw [← hw]
  unfold Word.op at *
  ext i hi
  have hb : (r.mask.extractLsb' 28 4)[i] = true := by
    rw [hm]
    interval_cases i <;> simp
  simp only [BitVec.getElem_extractLsb', BitVec.getLsbD_and] at *
  rw [hb, Bool.and_true]

/-- What selects one row of the map selects no row of another `OP`. -/
theorem selects_false_of_op (r : Row) (w : Word) (hr : r ∈ opcodeMap)
    (h : Word.op w ≠ Word.op r.pattern) : r.selects w = false := by
  cases hs : r.selects w with
  | true => exact absurd (selects_op r w hr hs) h
  | false => rfl

/-- A row that selects a word is the only row that does. -/
theorem selected_rows_of_op (w : Word) (r : Row) (hr : r ∈ opcodeMap) (ho : Word.op w = Word.op r.pattern)
    (hs : r.selects w = true) : (opcodeMap.filter (fun q => q.selects w)).map Row.mnemonic = [r.mnemonic] := by
  have hall : ∀ q ∈ opcodeMap, q.selects w = decide (q = r) := by
    intro q hq
    by_cases hqr : q = r
    · simp [hqr, hs]
    · have hne := pattern_op_injective r hr q hq hqr
      rw [selects_false_of_op q w hq (by rw [ho]; exact fun h => hne h.symm)]
      simp [hqr]
  have hf : opcodeMap.filter (fun q => q.selects w) = opcodeMap.filter (fun q => decide (q = r)) :=
    List.filter_congr hall
  rw [hf]
  clear hall hf hs ho
  revert r
  decide

/-- A word that decodes has selected a row, and is that row's command. -/
theorem decode_ok (w : Word) (i : Instr) (h : decode w = .ok i) :
    ∃ r ∈ opcodeMap, r.selects w = true ∧ i = r.mnemonic.instr w := by
  unfold decode at h
  cases hf : opcodeMap.find? (fun r => r.selects w) with
  | none => rw [hf] at h; simp only at h; split at h <;> cases h
  | some r =>
    rw [hf] at h
    cases h
    exact ⟨r, List.mem_of_find?_eq_some hf, by simpa using List.find?_some hf, rfl⟩

/-- A word that no row selects is illegal: a reserved opcode, or a must-be-zero bit. -/
theorem decode_error (w : Word) (h : ∀ r ∈ opcodeMap, r.selects w = false) :
    decode w = if 0x7 ≤ Word.op w ∧ Word.op w ≤ 0xE then .error .reservedOpcode else .error .mustBeZero := by
  have hf : opcodeMap.find? (fun r => r.selects w) = none :=
    List.find?_eq_none.2 (fun r hr => by simp [h r hr])
  unfold decode
  rw [hf]

end Sys2Proof.Laws
end

