-- ==== Sys2Proof/Laws/PerInstr.lean ====
section
/-! SUPPORT. The per-instruction family EncodesItsRow: the word of a command selects the row of its mnemonic in the
opcode map of 30_encoding.md R82, and no other row. -/

namespace Sys2Proof.Laws

open Sys2Proof

theorem op_push (b : Byte) : Word.op (encode (.push b)) = 0x1 := by
  unfold Word.op encode
  ext i hi
  simp only [BitVec.getElem_extractLsb', BitVec.getLsbD_append]
  interval_cases i <;> simp

theorem op_wr (a : RegAddr) (v : Sample) : Word.op (encode (.wr a v)) = 0x4 := by
  unfold Word.op encode
  ext i hi
  simp only [BitVec.getElem_extractLsb', BitVec.getLsbD_append]
  interval_cases i <;> simp

theorem op_rd (a : RegAddr) : Word.op (encode (.rd a)) = 0x5 := by
  unfold Word.op encode
  ext i hi
  simp only [BitVec.getElem_extractLsb', BitVec.getLsbD_append]
  interval_cases i <;> simp

/-- The word of `i` selects the row of its mnemonic, and no other (R82). -/
def EncodesItsRow.Statement (i : Instr) : Prop :=
  (opcodeMap.filter (fun r => r.selects (encode i))).map Row.mnemonic = [i.mnemonic]

theorem EncodesItsRow.idle : EncodesItsRow.Statement .idle := by
  unfold EncodesItsRow.Statement; decide

theorem EncodesItsRow.push (b : Byte) : EncodesItsRow.Statement (.push b) := by
  refine selected_rows_of_op _ ⟨.PUSH, 0x10000000#32, 0xFFFFFF00#32⟩ (by decide)
    ((op_push b).trans (by decide)) ?_
  simp only [Row.selects, encode, beq_iff_eq]
  ext i hi
  simp only [BitVec.getElem_and, BitVec.getElem_append]
  interval_cases i <;> simp

theorem EncodesItsRow.flush : EncodesItsRow.Statement .flush := by
  unfold EncodesItsRow.Statement; decide

theorem EncodesItsRow.rrst : EncodesItsRow.Statement .rrst := by
  unfold EncodesItsRow.Statement; decide

theorem EncodesItsRow.wr (a : RegAddr) (v : Sample) : EncodesItsRow.Statement (.wr a v) := by
  refine selected_rows_of_op _ ⟨.WR, 0x40000000#32, 0xFF000000#32⟩ (by decide)
    ((op_wr a v).trans (by decide)) ?_
  simp only [Row.selects, encode, beq_iff_eq]
  ext i hi
  simp only [BitVec.getElem_and, BitVec.getElem_append]
  interval_cases i <;> simp

theorem EncodesItsRow.rd (a : RegAddr) : EncodesItsRow.Statement (.rd a) := by
  refine selected_rows_of_op _ ⟨.RD, 0x50000000#32, 0xFF00FFFF#32⟩ (by decide)
    ((op_rd a).trans (by decide)) ?_
  simp only [Row.selects, encode, beq_iff_eq]
  ext i hi
  simp only [BitVec.getElem_and, BitVec.getElem_append]
  interval_cases i <;> simp

theorem EncodesItsRow.snap : EncodesItsRow.Statement .snap := by
  unfold EncodesItsRow.Statement; decide

theorem EncodesItsRow.reset : EncodesItsRow.Statement .reset := by
  unfold EncodesItsRow.Statement; decide

end Sys2Proof.Laws
end

