-- ==== Sys2Proof/Laws/Trace.lean ====
section
/-! SUPPORT. What one more event does to each reading of the observation trace. -/

namespace Sys2Proof.Laws

open Sys2Proof Sys2Proof.Machine Sys2Proof.Safety

section
variable (out : List Event) (w : List Byte) (t : List Sample) (lo hi : Sample) (p : List Pixel) (b : Byte) (n : Nat)

@[simp] theorem frameCount_frame : frameCount (out ++ [.frame w t lo hi p]) = frameCount out + 1 := by
  simp only [frameCount, List.filter_append, List.length_append]
  rfl

@[simp] theorem frameCount_discard : frameCount (out ++ [.discard b]) = frameCount out := by
  simp only [frameCount, List.filter_append, List.length_append]
  rfl

@[simp] theorem frameCount_flushed : frameCount (out ++ [.flushed n]) = frameCount out := by
  simp only [frameCount, List.filter_append, List.length_append]
  rfl

@[simp] theorem discardCount_frame : discardCount (out ++ [.frame w t lo hi p]) = discardCount out := by
  simp only [discardCount, List.filter_append, List.length_append]
  rfl

@[simp] theorem discardCount_discard : discardCount (out ++ [.discard b]) = discardCount out + 1 := by
  simp only [discardCount, List.filter_append, List.length_append]
  rfl

@[simp] theorem discardCount_flushed : discardCount (out ++ [.flushed n]) = discardCount out := by
  simp only [discardCount, List.filter_append, List.length_append]
  rfl

@[simp] theorem lastFrame_frame : lastFrame (out ++ [.frame w t lo hi p]) = some p := by
  simp only [lastFrame, List.foldl_append, List.foldl_cons, List.foldl_nil]

@[simp] theorem lastFrame_discard : lastFrame (out ++ [.discard b]) = lastFrame out := by
  simp only [lastFrame, List.foldl_append, List.foldl_cons, List.foldl_nil]

@[simp] theorem lastFrame_flushed : lastFrame (out ++ [.flushed n]) = lastFrame out := by
  simp only [lastFrame, List.foldl_append, List.foldl_cons, List.foldl_nil]

@[simp] theorem extracted_frame : extracted (out ++ [.frame w t lo hi p]) = extracted out ++ [(w, t)] := by
  simp only [extracted, List.filterMap_append]
  rfl

@[simp] theorem extracted_discard : extracted (out ++ [.discard b]) = extracted out := by
  simp only [extracted, List.filterMap_append]
  exact List.append_nil _

@[simp] theorem extracted_flushed : extracted (out ++ [.flushed n]) = extracted out := by
  simp only [extracted, List.filterMap_append]
  exact List.append_nil _

@[simp] theorem spanBytes_frame : spanBytes (out ++ [.frame w t lo hi p]) = spanBytes out ++ w := by
  simp only [spanBytes, List.foldl_append, List.foldl_cons, List.foldl_nil]

@[simp] theorem spanBytes_discard : spanBytes (out ++ [.discard b]) = spanBytes out ++ [b] := by
  simp only [spanBytes, List.foldl_append, List.foldl_cons, List.foldl_nil]

@[simp] theorem spanBytes_flushed : spanBytes (out ++ [.flushed n]) = [] := by
  simp only [spanBytes, List.foldl_append, List.foldl_cons, List.foldl_nil]

end

/-! ### The trace after a discard and after a publish -/

theorem discardOldest_frameCount (s : State) : frameCount s.discardOldest.out = frameCount s.out := by
  cases h : s.buf with
  | nil => simp [State.discardOldest, h]
  | cons b rest => rw [State.discardOldest_cons s b rest h]; simp

theorem discardOldest_lastFrame (s : State) : lastFrame s.discardOldest.out = lastFrame s.out := by
  cases h : s.buf with
  | nil => simp [State.discardOldest, h]
  | cons b rest => rw [State.discardOldest_cons s b rest h]; simp

theorem discardOldest_extracted (s : State) : extracted s.discardOldest.out = extracted s.out := by
  cases h : s.buf with
  | nil => simp [State.discardOldest, h]
  | cons b rest => rw [State.discardOldest_cons s b rest h]; simp

/-- The resync step is a discard from a state with the same `BUF`, `OUT`, `POS` and `DISCARD_CNT`. -/
theorem resync_out (s : State) : s.resync.out = s.discardOldest.out := by
  cases h : s.buf with
  | nil => simp [State.resync, State.discardOldest, h]
  | cons b rest => simp [State.resync, State.discardOldest, h]

theorem resync_pos (s : State) : s.resync.pos = s.discardOldest.pos := by
  cases h : s.buf with
  | nil => simp [State.resync, State.discardOldest, h]
  | cons b rest => simp [State.resync, State.discardOldest, h]

theorem resync_discardCnt (s : State) : s.resync.discardCnt = s.discardOldest.discardCnt := by
  cases h : s.buf with
  | nil => simp [State.resync, State.discardOldest, h]
  | cons b rest => simp [State.resync, State.discardOldest, h]

/-- The event of a publish: the window, its samples, the range in the registers after it, the pixels in `DISP` after
it. -/
theorem published_out (s : State) :
    (published s).out =
      s.out ++ [.frame s.window (samples s.cfg.byteOrder s.window) (published s).prMin (published s).prMax
        (published s).disp] := by
  simp [published]

/-- The pixels of a publish: the samples mapped against the range in the registers after it. -/
theorem published_disp (s : State) :
    (published s).disp =
      mapFrame s.cfg (samples s.cfg.byteOrder s.window) (published s).prMin (published s).prMax := by
  simp [published]

end Sys2Proof.Laws
end

