-- ==== Sys2Proof/Tests/Slice0.lean ====
section
/-! SUPPORT. Tests. Expected values come from spec/: the rows E, D, M, K, X, S of 95_test_vectors.md and the rules
named at each test. Then, for every obligation with hypotheses, a witness that meets them all. -/

namespace Sys2Proof.Tests

open Sys2Proof Sys2Proof.Machine Sys2Proof.Safety Sys2Proof.Laws

/-! ### Helpers -/

/-- What RD would return of a register after a command, and whether there is a next state. -/
def readBack (r : Result) (g : Reg) : Option Nat :=
  match r with
  | .next t => some (t.readReg g).toNat
  | .fault _ => none
  | .refused _ => none

/-- The response code and data of a command. -/
def responded (r : Result) : Option (ResponseCode × Nat) :=
  match r with
  | .next t => t.resp.map (fun a => (a.code, a.data.toNat))
  | .fault _ => none
  | .refused _ => none

/-- The palette GRAY of 95_test_vectors.md section 0: index `k` is the colour `k * 0x010101`. -/
def gray : Cfg := { Cfg.default with palette := Vector.ofFn (fun k => BitVec.ofNat 24 (k.val * 0x010101)) }

/-- A block with the range check enabled and no sample plausible (R9: `SANE_MIN > SANE_MAX`). -/
def emptySane : Cfg := { Cfg.default with rangeEn := true, saneMin := 1, saneMax := 0 }

/-- A block with a one-byte marker A5 at offset 0. -/
def marked : Cfg := { Cfg.default with markEn := true, mark := #v[0xA5, 0, 0, 0] }

/-- A block with a four-byte marker in the last four bytes of the window: `MARK_OFF + MARK_LEN = FRAME_BYTES`. -/
def trailed : Cfg :=
  { Cfg.default with markEn := true, markLen := 4, markOff := 2044, mark := #v[1, 2, 3, 4] }

/-- The start state of the halted rows X3 to X9. -/
def halted : State :=
  { State.reset with fault := 1, sync := .locked, dispValid := true }

/-- A block whose `BUF` holds `n` bytes of zero. -/
def waiting (n : Nat) : State := { State.reset with buf := List.replicate n 0 }

/-! ### WellFormed: each check refuses an ill-formed term -/

theorem test_wf_wr_status : (Instr.wr 0x01 0).wf = false := by decide
theorem test_wf_rd_reserved : (Instr.rd 0x11).wf = false := by decide
theorem test_wf_marker_too_short : { Cfg.default with markLen := 0 }.wf = false := by decide
theorem test_wf_marker_too_long : { Cfg.default with markLen := 5 }.wf = false := by decide
theorem test_wf_marker_leaves_window : { Cfg.default with markLen := 2, markOff := 2047 }.wf = false := by decide
theorem test_wf_marker_not_padded : { Cfg.default with mark := #v[0, 1, 0, 0] }.wf = false := by decide
theorem test_wf_trailer : trailed.wf = true := by decide
theorem test_cap_below_a_frame : capOk 2047 = false := by decide
theorem test_cap_of_a_frame : capOk 2048 = true := by decide

/-! ### Decode: the words of section 2.1, each written out from R80 and R82 -/

theorem test_decode_idle : decode 0x00000000 = .ok .idle := by decide
theorem test_decode_push : decode 0x100000F4 = .ok (.push 0xF4) := by decide
theorem test_decode_flush : decode 0x20000000 = .ok .flush := by decide
theorem test_decode_rrst : decode 0x30000000 = .ok .rrst := by decide
theorem test_decode_wr : decode 0x400303FF = .ok (.wr 0x03 1023) := by decide
theorem test_decode_rd : decode 0x50100000 = .ok (.rd 0x10) := by decide
theorem test_decode_snap : decode 0x60000000 = .ok .snap := by decide
theorem test_decode_reset : decode 0xF0000000 = .ok .reset := by decide
/-- E20 to E25, E31, E35. -/
theorem test_decode_refuses :
    decode 0x70000000 = .error .reservedOpcode ∧ decode 0xE0000000 = .error .reservedOpcode ∧
      decode 0x10000100 = .error .mustBeZero ∧ decode 0x01000000 = .error .mustBeZero ∧
      decode 0x00000001 = .error .mustBeZero ∧ decode 0x20010000 = .error .mustBeZero ∧
      decode 0x50010001 = .error .mustBeZero ∧ decode 0xF0000001 = .error .mustBeZero := by decide
/-- E17 to E19: the expansions of PIN, AUTO and PUSHS16. -/
theorem test_pseudo :
    ((Pseudo.pin 0 1023 false).expand .little).map encode = [0x40020000, 0x400303FF, 0x40000001] ∧
      ((Pseudo.auto true).expand .little).map encode = [0x40000002] ∧
      ((Pseudo.pushS16 500).expand .little).map encode = [0x100000F4, 0x10000001] ∧
      ((Pseudo.pushS16 500).expand .big).map encode = [0x10000001, 0x100000F4] := by decide
/-- E11: the text form. -/
theorem test_text : instrText (.wr 0x03 1023) = "WR PR_MAX, 1023" := by decide +kernel
/-- The codes of R91. -/
theorem test_response_codes :
    [ResponseCode.ok, .illegalCommand, .lengthFault, .halted].map ResponseCode.bits = [0, 1, 2, 3] := by decide
theorem test_table_word : decodeTableWord 32 0x400303FF = some (.wr 0x03 1023) := by decide

/-! ### The commands, one step each -/

/-- E1. -/
theorem test_idle : responded (exec .idle { halted with port := .o }) = some (.ok, 0) := by decide
/-- S1: the first PUSH only appends. -/
theorem test_push_appends : readBack (exec (.push 0xAA) State.reset) .len = some 1 := by decide
/-- X1. -/
theorem test_push_on_o : readBack (exec (.push 0x12) { State.reset with port := .o }) .status = some 0x10 := by decide
/-- K13: `STATUS` 0x0D becomes 0x0C. -/
theorem test_flush :
    readBack (exec .flush { State.reset with buf := [1, 2], sync := .locked, dispValid := true, new := true })
      .status = some 0x0C := by decide
/-- M34. -/
theorem test_rrst : readBack (exec .rrst { State.reset with prMin := 100, prMax := 900 }) .prMax = some 65535 := by decide
/-- E9: bits 15:2 of `CTRL` are ignored. -/
theorem test_wr_ctrl : readBack (exec (.wr 0x00 0xFFFF) State.reset) .ctrl = some 3 := by decide
/-- K11. -/
theorem test_wr_prMin : readBack (exec (.wr 0x02 7) { State.reset with prMin := 500 }) .prMin = some 7 := by decide
/-- X5. -/
theorem test_rd_status : responded (exec (.rd 0x01) { halted with port := .o }) = some (.ok, 0x45) := by decide
/-- Cfg_T2 of section 0 reads `CFG0` as 0x0C. -/
theorem test_rd_cfg0 :
    responded (exec (.rd 0x08) { State.reset with cfg := { Cfg.default with markEn := true, markLen := 2 } }) =
      some (.ok, 0x0C) := by decide
/-- K7: the data is 0b11. -/
theorem test_snap_data :
    responded (exec .snap { State.reset with dispValid := true, new := true }) = some (.ok, 3) := by decide
/-- K7: `STATUS` 0x0D becomes 0x05. -/
theorem test_snap_clears_new :
    readBack (exec .snap { State.reset with sync := .locked, dispValid := true, new := true }) .status = some 5 := by
  decide
/-- X9. -/
theorem test_reset_leaves_halted : readBack (exec .reset halted) .status = some 0 := by decide
/-- K12. -/
theorem test_reset_range : readBack (exec .reset { State.reset with prMax := 900, frameCnt := 9 }) .prMax = some 65535 := by
  decide
/-- X7: the illegal word wins over Halted. -/
theorem test_illegal_wins : responded (issue 0x70000000 halted) = some (.illegalCommand, 0) := by decide
/-- X4. -/
theorem test_halted_wr : responded (exec (.wr 0x00 1) halted) = some (.halted, 0) := by decide
/-- E26 on a halted block: the address is checked first (R90). -/
theorem test_halted_wr_status : responded (exec (.wr 0x01 0) halted) = some (.illegalCommand, 0) := by decide
/-- K3, through a step. -/
theorem test_step_rd_cap : responded (step (State.reset.withFetchWord 32 0x500E0000)) = some (.ok, 4096) := by decide

/-! ### Decoder and mapper -/

/-- D1 and D2. -/
theorem test_samples :
    samples .little [0xF4, 0x01, 0x01, 0xF4] = [500, 62465] ∧
      samples .big [0xF4, 0x01, 0x01, 0xF4] = [62465, 500] := by decide
/-- M2, M4, M6. -/
theorem test_map_full_span :
    mapSample gray 65535 0 65535 = 0xFFFFFF ∧ mapSample gray 32768 0 65535 = 0x7F7F7F ∧
      mapSample gray 257 0 65535 = 0x010101 := by decide +kernel
/-- M7, M10, M12, M13. -/
theorem test_map_clamps :
    mapSample gray 500 0 1023 = 0x7C7C7C ∧ mapSample gray 0 100 400 = 0x000000 ∧
      mapSample gray 65535 100 400 = 0xFFFFFF ∧ mapSample gray 250 100 400 = 0x7F7F7F := by decide +kernel
/-- M14, M15: the degenerate ranges. -/
theorem test_map_degenerate : mapSample gray 7 7 7 = 0x000000 ∧ mapSample gray 9 8 7 = 0x000000 := by decide +kernel
/-- M28. -/
theorem test_auto_range : frameMin [100, 200, 300, 400] = 100 ∧ frameMax [100, 200, 300, 400] = 400 := by decide

/-! ### Whole windows -/

/-- S2: `STATUS` becomes 0x0D. -/
theorem test_push_publishes :
    readBack (exec (.push 0xAA) { State.reset with buf := List.replicate 2047 0xAA }) .status = some 0x0D := by
  decide +kernel
/-- S3 and P2: the failed check discards one byte, and counts a resync cycle when the block was locked. -/
theorem test_push_discards :
    readBack (exec (.push 0) { waiting 2047 with cfg := emptySane }) .resyncCnt = some 0 ∧
      readBack (exec (.push 0) { waiting 2047 with cfg := emptySane, sync := .locked }) .resyncCnt = some 1 ∧
      readBack (exec (.push 0) { waiting 2047 with cfg := emptySane }) .len = some 2047 := by
  decide +kernel

/-! ### Facts the witnesses share -/

/-- A frame of zeros. -/
def zeros : List Byte := List.replicate 2048 0

theorem zeros_length : zeros.length = frameBytes := List.length_replicate ..

theorem zeros_valid : valid Cfg.default zeros = true := rfl

theorem zeros_invalid : valid emptySane zeros = false := by decide +kernel

theorem waiting_length (n : Nat) : (waiting n).buf.length = n := List.length_replicate ..

theorem zeros_split : List.replicate 2047 0 ++ [0] = zeros := by
  rw [zeros, List.replicate_succ' (n := 2047)]

/-! ### Witnesses: the command word -/

theorem witness_EncodeOfDecodeIsTheWord : decode 0x100000FF = .ok (.push 0xFF) := by decide

theorem witness_NoWordSelectsTwoRows :
    ∃ r ∈ opcodeMap, ∃ q ∈ opcodeMap, r.selects 0x4000FFFF = true ∧ q.selects 0x4000FFFF = true := by decide

/-- One word for each must-be-zero field: `Z` at both ends of the opcodes, `A`, `D`, `D[15:8]` of PUSH. -/
theorem witness_MustBeZeroBitsAreChecked :
    (Word.op 0x01000000 < 0x7 ∧ BitVec.extractLsb' 24 4 0x01000000#32 ≠ 0) ∧
      (Word.op 0xF8000000 = 0xF ∧ BitVec.extractLsb' 24 4 0xF8000000#32 ≠ 0) ∧
      (Word.op 0x60800000 < 0x7 ∧ Word.op 0x60800000 ≠ 0x4 ∧ Word.op 0x60800000 ≠ 0x5 ∧
        BitVec.extractLsb' 16 8 0x60800000#32 ≠ 0) ∧
      (Word.op 0x50008000 < 0x7 ∧ Word.op 0x50008000 ≠ 0x1 ∧ Word.op 0x50008000 ≠ 0x4 ∧
        BitVec.extractLsb' 0 16 0x50008000#32 ≠ 0) ∧
      (Word.op 0x10000100 < 0x7 ∧ Word.op 0x10000100 = 0x1 ∧ BitVec.extractLsb' 8 8 0x10000100#32 ≠ 0) := by decide

theorem witness_ReservedOpcodesAreRefused :
    (0x7 ≤ Word.op 0x70000000 ∧ Word.op 0x70000000 ≤ 0xE) ∧ (0x7 ≤ Word.op 0xEFFFFFFF ∧ Word.op 0xEFFFFFFF ≤ 0xE) := by
  decide

/-! ### Witnesses: exceptions -/

/-- The first and the last legal and illegal addresses, and a legal word of the O-port. -/
theorem witness_IllegalWordsRaiseIllegalCommandOnly :
    IllegalWord .c 0x50110000 ∧ ¬ IllegalWord .c 0x50100000 ∧ IllegalWord .c 0x40010000 ∧ ¬ IllegalWord .c 0x40030000 ∧
      IllegalWord .o 0xF0000000 ∧ ¬ IllegalWord .o 0x60000000 ∧ IllegalWord .c 0x70000000 := by
  refine ⟨?_, ?_, ?_, ?_, ?_, ?_, ?_⟩ <;> simp [IllegalWord, decode, opcodeMap, Row.selects, Mnemonic.instr,
    Word.addr, Word.data, Word.op, Instr.wf, Instr.allowedOnO]

theorem witness_ObserverPortRights : { State.reset with port := .o }.port = .o ∧ (0x10 : RegAddr) ≤ 0x10 := by decide

theorem witness_HaltedCommandsChangeNothing : halted.port = .c ∧ halted.fault ≠ 0 := by decide

/-- A FLUSH with all three sticky fields set: nothing but a RESET word is excluded. -/
theorem witness_StickyBitsStayUntilReset :
    issue 0x20000000 { halted with cmdErr := true, ovf := true } = .next (afterHalted { halted with cmdErr := true, ovf := true }) ∧
      ¬ ResetWord .c 0x20000000 ∧ ResetWord .c 0xF0000000 ∧ halted.fault ≠ 0 :=
  ⟨rfl, (fun h => by cases test_decode_flush.symm.trans h.1), ⟨test_decode_reset, rfl⟩, by decide⟩

/-- 2047 and 2049 bytes, the rows D10; a `BUF` of 2047 bytes in the body of the loop; a PUSH that completes. -/
theorem witness_LengthFaultKeepsWhatCameBefore :
    (List.replicate 2047 (0 : Byte)).length ≠ frameBytes ∧ (List.replicate 2049 (0 : Byte)).length ≠ frameBytes ∧
      (waiting 2047).buf.length < frameBytes ∧ valid (waiting 2047).cfg (waiting 2047).buf = true ∧
      ∃ t, exec (.push 1) State.reset = .next t :=
  ⟨by rw [List.length_replicate]; decide, by rw [List.length_replicate]; decide,
    by rw [waiting_length]; decide, rfl, _, rfl⟩

theorem witness_ObserverPortTouchesOnlyNewAndCmdErr :
    ∃ t, { State.reset with port := .o, new := true }.port = .o ∧
      issue 0x60000000 { State.reset with port := .o, new := true } = .next t ∧ t.new = false :=
  ⟨_, rfl, rfl, rfl⟩

/-! ### Witnesses: FLUSH, RRST, WR, RD, RESET, the writers -/

theorem witness_FlushResetsTheSynchronizerOnly :
    ((waiting 3).port = .c ∧ (waiting 3).fault = 0) ∧ (halted.port = .c ∧ halted.fault ≠ 0) ∧
      { State.reset with port := .o }.port = .o := by decide

theorem witness_RrstRestoresTheDefaultSpan :
    ({ State.reset with prMin := 9 }.port = .c ∧ { State.reset with prMin := 9 }.fault = 0) ∧
      (halted.port = .c ∧ halted.fault ≠ 0) ∧ { State.reset with port := .o }.port = .o := by decide

theorem witness_WrWritesTheOneRegisterNamed : State.reset.port = .c ∧ State.reset.fault = 0 := by decide

theorem witness_ComposedRegistersReadTheirFields :
    (1 ≤ State.reset.cfg.markLen.toNat ∧ State.reset.cfg.markLen.toNat ≤ 4) ∧
      (1 ≤ trailed.markLen.toNat ∧ trailed.markLen.toNat ≤ 4) := by decide

theorem witness_PlainRegistersReadZeroExtended : (waiting 65535).buf.length ≤ 65535 := by
  rw [waiting_length]

theorem witness_ResetPutsEverythingToItsResetValue : halted.port = .c ∧ { halted with port := .o }.port = .o := by decide

theorem witness_ResetCommandLeavesTheInputs : ∃ t, halted.port = .c ∧ exec .reset halted = .next t := ⟨_, rfl, rfl⟩

theorem witness_StateIsWrittenByPushFlushAndResetOnly :
    ∃ t, exec .flush { waiting 2 with sync := .locked } = .next t ∧ t.sync ≠ { waiting 2 with sync := .locked }.sync :=
  ⟨_, rfl, by decide⟩

theorem witness_PaletteRangeWriters :
    ∃ t, exec (.wr 0x02 7) State.reset = .next t ∧ (t.prMin ≠ State.reset.prMin ∨ t.prMax ≠ State.reset.prMax) :=
  ⟨_, rfl, by decide⟩

/-- RESET replaces a `DISP` of no pixels by one of 1024. -/
theorem witness_DispIsWrittenByPublishAndResetOnly :
    ∃ t, exec .reset { State.reset with disp := [] } = .next t ∧ t.disp ≠ { State.reset with disp := [] }.disp :=
  ⟨_, rfl, fun h => by simpa using congrArg List.length h⟩

theorem witness_ConfigurationIsConstantBetweenResets :
    ∃ t, issue 0x10000007 State.reset = .next t ∧ ¬ ResetWord State.reset.port 0x10000007 :=
  ⟨_, rfl, fun h => by cases (show decode 0x10000007 = .ok (.push 0x07) by decide).symm.trans h.1⟩

/-! ### Witnesses: decoder, validation, mapper -/

theorem witness_DecodePairsBytesInTheConfiguredOrder :
    zeros.length = frameBytes ∧ zeros[2 * 1023]? = some 0 ∧ zeros[2 * 1023 + 1]? = some 0 ∧
      (samples .little zeros)[1023]? = some 0 ∧ (List.replicate 2047 (0 : Byte)).length ≠ frameBytes :=
  ⟨zeros_length, by decide +kernel, by decide +kernel, by decide +kernel, by rw [List.length_replicate]; decide⟩

theorem witness_DecodeIsInjectiveAndOrdersDifferBySwapping :
    zeros.length = frameBytes ∧ decodeFrame Cfg.default zeros = decodeFrame Cfg.default zeros := ⟨zeros_length, rfl⟩

theorem witness_RangeCheckIsPerSample : zeros.length = frameBytes := zeros_length

/-- A marker at the end of the window, `MARK_OFF + MARK_LEN = FRAME_BYTES`, and one at its start. -/
theorem witness_MarkerCheckComparesTheMarkerBytes :
    trailed.wf = true ∧ marked.wf = true ∧ zeros.length = frameBytes := ⟨by decide, by decide, zeros_length⟩

/-- A configuration for each of the four strategies. -/
theorem witness_ValidIsTheConjunctionOfTheEnabledChecks :
    zeros.length = frameBytes ∧ (Cfg.default.rangeEn = false ∧ Cfg.default.markEn = false) ∧
      (emptySane.rangeEn = true ∧ emptySane.markEn = false) ∧ (marked.rangeEn = false ∧ marked.markEn = true) ∧
      ({ marked with rangeEn := true }.rangeEn = true ∧ { marked with rangeEn := true }.markEn = true) :=
  ⟨zeros_length, by decide⟩

theorem witness_EmptySaneRangeNeverLocks :
    ∃ t, emptySane.rangeEn = true ∧ emptySane.saneMax < emptySane.saneMin ∧
      { State.reset with cfg := emptySane }.sync ≠ .locked ∧
      exec .flush { State.reset with cfg := emptySane } = .next t :=
  ⟨_, rfl, by decide, by decide, rfl⟩

/-- Equal bounds fall under the first clause, bounds one apart under the second. -/
theorem witness_MapSampleIsTheSpecFormula :
    (7 : Sample).toNat ≤ (7 : Sample).toNat ∧ (7 : Sample).toNat < (8 : Sample).toNat := by decide

theorem witness_TableIndexStaysInTheTable : (0 : Sample) < 65535 ∧ (65534 : Sample) < 65535 := by decide

/-- The samples at the bounds themselves. -/
theorem witness_ClampedSamplesTakeTheEndColours :
    ((100 : Sample) < 400 ∧ (100 : Sample) ≤ 100 ∧ (400 : Sample) ≤ 400) ∧ (5 : Sample) ∈ [5, 9] := by decide

theorem witness_TableIndexIsMonotone : (0 : Sample) < 1 ∧ (3 : Sample) ≤ 3 := by decide

theorem witness_RangePolicyIsPinnedOrTheFramesOwn :
    ([0xFFFF] : List Sample) ≠ [] ∧ { State.reset with pin := true }.pin = true ∧ State.reset.pin = false := by decide

theorem witness_AutoRangeReachesBothEnds :
    (([5, 5] : List Sample) ≠ [] ∧ ∀ x ∈ ([5, 5] : List Sample), ∀ y ∈ ([5, 5] : List Sample), x = y) ∧
      (([0, 65535] : List Sample) ≠ [] ∧
        ∃ x ∈ ([0, 65535] : List Sample), ∃ y ∈ ([0, 65535] : List Sample), x ≠ y) :=
  ⟨⟨by decide, by simp⟩, by decide, 0, by simp, 65535, by simp, by decide⟩

/-! ### Witnesses: PUSH -/

theorem witness_PushBelowAFrameAppends :
    (waiting 2046).port = .c ∧ (waiting 2046).fault = 0 ∧ capOk (waiting 2046).cap = true ∧
      (waiting 2046).buf.length + 1 < frameBytes :=
  ⟨rfl, rfl, by decide, by rw [waiting_length]; decide⟩

/-- In AUTO and in PINNED mode. -/
theorem witness_PushOfAValidWindowPublishes (pinned : Bool) :
    ∃ (s : State) (t : List Sample) (lo hi : Sample), s.pin = pinned ∧ s.port = .c ∧ s.fault = 0 ∧
      capOk s.cap = true ∧ s.buf.length + 1 = frameBytes ∧ valid s.cfg (s.buf ++ [0]) = true ∧
      decodeFrame s.cfg (s.buf ++ [0]) = .ok t ∧ lo = (if s.pin then s.prMin else frameMin t) ∧
      hi = (if s.pin then s.prMax else frameMax t) :=
  ⟨{ waiting 2047 with pin := pinned }, _, _, _, rfl, rfl, rfl, (by decide : capOk 4096 = true),
    by rw [waiting_length]; rfl, rfl, decodeFrame_ok _ _ (by rw [List.length_append, waiting_length]; rfl), rfl, rfl⟩

/-- Locked and seeking. -/
theorem witness_PushOfAFailingWindowDiscardsOneByte (x : SyncState) :
    ∃ s : State, ∃ rest : List Byte, s.sync = x ∧ s.port = .c ∧ s.fault = 0 ∧ capOk s.cap = true ∧
      s.buf.length + 1 = frameBytes ∧ valid s.cfg (s.buf ++ [0]) = false ∧ s.buf ++ [0] = 0 :: rest :=
  ⟨{ waiting 2047 with cfg := emptySane, sync := x }, List.replicate 2046 0 ++ [0], rfl, rfl, rfl, (by decide : capOk 4096 = true),
    by rw [waiting_length]; rfl, by
      show valid emptySane (List.replicate 2047 0 ++ [0]) = false
      rw [zeros_split]; exact zeros_invalid, rfl⟩

/-- `len(BUF) = CAP` with the default `CAP`. -/
theorem witness_PushAtTheCapDropsTheOldestByte :
    (waiting 4096).port = .c ∧ (waiting 4096).fault = 0 ∧ (waiting 4096).buf = 0 :: List.replicate 4095 0 ∧
      (waiting 4096).buf.length = (waiting 4096).cap.toNat ∧ capOk (waiting 4096).cap = true ∧
      (waiting 4096).buf.length ≤ (waiting 4096).cap.toNat :=
  ⟨rfl, rfl, rfl, by rw [waiting_length]; rfl, by decide, by rw [waiting_length]; decide⟩

/-- One pass on exactly one frame, valid or not; a PUSH that completes; `BUF` one byte below `CAP`; the invariant. -/
theorem witness_ExtractionLoopMakesForwardProgress :
    (frameBytes ≤ (waiting 2048).buf.length ∧ (∃ s' k, (waiting 2048).loopBody = .ended s' k)) ∧
      (∃ t, (waiting 2047).port = .c ∧ (waiting 2047).fault = 0 ∧ exec (.push 0) (waiting 2047) = .next t) ∧
      (waiting 4095).buf.length < (waiting 4095).cap.toNat ∧
      (capOk (waiting 2047).cap = true ∧ SyncInv (waiting 2047)) := by
  have hl : frameBytes ≤ (waiting 2048).buf.length := by rw [waiting_length]; decide
  refine ⟨⟨hl, ?_⟩, ⟨_, rfl, rfl, rfl⟩, by rw [waiting_length]; decide,
    by decide, by rw [waiting_length]; decide, rfl, rfl, .inl rfl⟩
  rcases loopBody_cases (waiting 2048) hl with ⟨-, h⟩ | ⟨-, h⟩ <;> exact ⟨_, _, h⟩

/-- Whatever `BUF` holds: here as many bytes as `CAP`. -/
theorem witness_PushCompletesAndCountsItsFrames : (waiting 4096).port = .c ∧ (waiting 4096).fault = 0 := by decide

theorem witness_PushConservesTheStream :
    ∃ t, (waiting 2047).port = .c ∧ (waiting 2047).fault = 0 ∧ exec (.push 1) (waiting 2047) = .next t :=
  ⟨_, rfl, rfl, rfl⟩

/-- A PUSH that extracts no frame, in PINNED mode. -/
theorem witness_PushFrameOfControlAndOutput :
    ∃ t, { State.reset with pin := true }.port = .c ∧ { State.reset with pin := true }.fault = 0 ∧
      exec (.push 1) { State.reset with pin := true } = .next t ∧
      frameCount t.out = frameCount { State.reset with pin := true }.out ∧ { State.reset with pin := true }.pin = true :=
  ⟨_, rfl, rfl, rfl, rfl, rfl⟩

/-! ### Witnesses: invariants, the step, runs -/

/-- A block right after reset, a PUSH waiting on its C-port. -/
def ready : State := { State.reset with cPort := [0x10000007] }

theorem ready_step : ∃ t, step ready = .next t ∧ t.buf = [7] := ⟨_, rfl, by decide⟩

theorem ready_slot : SlotInv ready := ⟨rfl, fun _ h => by cases h⟩

theorem witness_StepKeepsTheSynchronizerInvariant : ∃ t, SyncInv ready ∧ step ready = .next t :=
  ⟨ready_step.choose, ⟨by decide, rfl, rfl, .inl rfl⟩, ready_step.choose_spec.1⟩

theorem witness_StepKeepsTheSlotInvariant : ∃ t, SlotInv ready ∧ step ready = .next t :=
  ⟨ready_step.choose, ready_slot, ready_step.choose_spec.1⟩

theorem witness_StepKeepsTheTraceAccounting : ∃ t, TraceInv ready ∧ step ready = .next t :=
  ⟨ready_step.choose, ⟨rfl, rfl, rfl⟩, ready_step.choose_spec.1⟩

theorem witness_StepKeepsTheMemoryForm : ∃ t, Memory.wf ready = true ∧ step ready = .next t :=
  ⟨ready_step.choose, by simp [Memory.wf, ready, State.reset, freeFrame_length], ready_step.choose_spec.1⟩

theorem witness_SnapReturnsTheLastPublishedFrame :
    ∃ s : State, ∃ p : List Pixel, SlotInv s ∧ lastFrame s.out = some p :=
  ⟨{ State.reset with disp := [1], dispValid := true, out := [.frame [] [] 0 0 [1]] }, [1],
    ⟨rfl, fun p h => by simpa [lastFrame] using h⟩, rfl⟩

/-- One word on the C-port; one on the O-port; RESET with the configuration inputs changed; a word of each decoding. -/
theorem witness_StepRunsTheDecodedCommand :
    State.reset.resetIn = false ∧ configOk State.reset.cfg State.reset.cap = true ∧ State.reset.newConfig = none ∧
      { State.reset with cPort := [0x70000000] }.cPort = 0x70000000 :: [] ∧ State.reset.oPort = [] ∧
      { State.reset with oPort := [0x10000007] }.oPort = 0x10000007 :: [] ∧ State.reset.cPort = [] ∧
      (0xF0000000 : Word) = encode .reset ∧ decode 0x10000007 = .ok (.push 7) ∧
      decode 0x70000000 = .error .reservedOpcode := by decide

theorem witness_WaitingPortsGoInTheOrderOfTheArbiter :
    ∃ s : State, s.resetIn = false ∧ configOk s.cfg s.cap = true ∧ s.newConfig = none ∧ s.cPort = 0x10000007 :: [] ∧
      s.oPort = 0x60000000 :: [] :=
  ⟨{ State.reset with cPort := [0x10000007], oPort := [0x60000000] }, rfl, by decide, rfl, rfl, rfl⟩

theorem witness_ResetInputOverridesEverything :
    { State.reset with resetIn := true, cPort := [0x10000007] }.resetIn = true := rfl

/-- A block whose configuration inputs were changed, with words waiting on its ports. -/
def changed (cs os : List Word) : State :=
  { State.reset with newConfig := some (emptySane, 2048), cPort := cs, oPort := os }

/-- Nothing waits; `MARK_LEN = 0` and, at the other bound, `CAP` 2047; changed inputs with a PUSH on the C-port, with
RESET's word on the O-port, and with RESET's word on both. -/
theorem witness_StepWithoutACommandWaitsOrStops :
    (State.reset.resetIn = false ∧ configOk State.reset.cfg State.reset.cap = true ∧ State.reset.cPort = [] ∧
        State.reset.oPort = []) ∧
      (configOk { Cfg.default with markLen := 0 } 4096 = false ∧ configOk Cfg.default 2047 = false) ∧
      (changed [0x10000007] []).resetIn = false ∧ configOk (changed [0x10000007] []).cfg (changed [] []).cap = true ∧
      (changed [0x10000007] []).newConfig ≠ none ∧ (changed [0x10000007] []).cPort = 0x10000007 :: [] ∧
      (0x10000007 : Word) ≠ encode .reset ∧
      ((changed [] [0xF0000000]).cPort = [] ∧ (changed [] [0xF0000000]).oPort = 0xF0000000 :: []) ∧
      ((changed [0xF0000000] [0xF0000000]).cPort = 0xF0000000 :: [] ∧
        (changed [0xF0000000] [0xF0000000]).oPort = 0xF0000000 :: []) := by
  decide

/-- R216 and R212 where the inputs were changed; on the O-port the word is no RESET (E34). -/
theorem test_changed_inputs :
    step (changed [] [0xF0000000]) = .fault .configInputsChanged ∧
      responded (step (changed [0xF0000000] [])) = some (.ok, 0) := ⟨rfl, rfl⟩

/-- A locked block with a marker; a corrupted frame, then a frame of marker bytes: the next valid window is exactly one
frame size later. -/
theorem witness_OneResyncCycleRecoversWithinAFrame :
    ∃ (s : State) (xs : List Byte), s.port = .c ∧ s.fault = 0 ∧ capOk s.cap = true ∧ s.buf = [] ∧ s.sync = .locked ∧
      xs.length = 2 * frameBytes ∧ valid s.cfg (windowAt xs 0) = false ∧ valid s.cfg (windowAt xs frameBytes) = true := by
  refine ⟨{ State.reset with cfg := marked, sync := .locked }, zeros ++ List.replicate 2048 0xA5, rfl, rfl, by decide, rfl,
    rfl, by rw [List.length_append, zeros_length, List.length_replicate]; decide, ?_, ?_⟩ <;> decide +kernel

end Sys2Proof.Tests
end

section
/-! The status bits of 10_state.md: `CMD_ERR`, `OVF` and `FAULT` are sticky (R39), `FAULT` nonzero is the halted
condition, and `irq` is read off `NEW` and `IE` (R47). -/

namespace Sys2Proof.StatusBits

open Sys2Proof Sys2Proof.Machine Sys2Proof.Safety Sys2Proof.Laws

theorem halted_iff (s : State) : s.halted = true ↔ s.fault ≠ 0 :=
  bne_iff_ne

/-- From `s` to `t` no sticky bit is cleared (R39), and `FAULT`, which no word but RESET changes, is the same. -/
structure KeepsSticky (s t : State) : Prop where
  cmdErr : s.cmdErr = true → t.cmdErr = true
  ovf : s.ovf = true → t.ovf = true
  fault : t.fault = s.fault

section
variable {s t : State}

/-- What touches none of the three fields keeps them. -/
theorem KeepsSticky.of_eq (hc : t.cmdErr = s.cmdErr) (ho : t.ovf = s.ovf) (hf : t.fault = s.fault) :
    KeepsSticky s t :=
  ⟨fun h => hc.trans h, fun h => ho.trans h, hf⟩

theorem KeepsSticky.trans {u : State} (hst : KeepsSticky s t) (htu : KeepsSticky t u) : KeepsSticky s u :=
  ⟨fun h => htu.cmdErr (hst.cmdErr h), fun h => htu.ovf (hst.ovf h), htu.fault.trans hst.fault⟩

end

/-! ### The effects of the commands -/

section
variable (s : State)

/-- R191: IllegalCommand sets `CMD_ERR` and touches neither `OVF` nor `FAULT`. -/
theorem raise_illegalCommand_keepsSticky : KeepsSticky s (s.raise .illegalCommand) :=
  ⟨fun _ => rfl, fun h => h, rfl⟩

/-- R193: Halted touches nothing but the response. -/
theorem raise_halted_keepsSticky : KeepsSticky s (s.raise .halted) :=
  .of_eq rfl rfl rfl

/-- R106: appending a byte sets `OVF` when the cap is reached and never clears it. -/
theorem acceptByte_keepsSticky (b : Byte) : KeepsSticky s (s.acceptByte b) where
  cmdErr h := by rw [State.acceptByte_cmdErr, h]
  ovf h := by
    by_cases hcap : s.buf.length = s.cap.toNat
    · rw [acceptByte_atCap s b hcap, State.appendByte_ovf]
    · rw [acceptByte_below s b hcap, State.appendByte_ovf, h]
  fault := State.acceptByte_fault s b

theorem published_keepsSticky : KeepsSticky s (published s) :=
  .of_eq (by simp [published]) (by simp [published]) (by simp [published])

theorem resync_keepsSticky : KeepsSticky s s.resync :=
  .of_eq s.resync_cmdErr s.resync_ovf s.resync_fault

theorem respond_keepsSticky (d : Word) : KeepsSticky s (s.respond d) :=
  .of_eq rfl rfl rfl

/-- PUSH, over all passes of its extraction loop. -/
theorem pushByte_keepsSticky (b : Byte) : KeepsSticky s (s.pushByte b) :=
  pushByte_keeps (KeepsSticky s) s b (acceptByte_keepsSticky s b)
    (fun x hx _ => ⟨hx.trans (published_keepsSticky x), hx.trans (resync_keepsSticky x)⟩)
    (fun x d hx => hx.trans (respond_keepsSticky x d))

theorem writeReg_keepsSticky (r : WritableReg) (v : Sample) : KeepsSticky s (s.writeReg r v) :=
  .of_eq (s.writeReg_cmdErr r v) (s.writeReg_ovf r v) (s.writeReg_fault r v)

end

/-! ### Every command, every word -/

/-- A command keeps the sticky bits, unless it is RESET on the C-port. -/
theorem exec_keepsSticky (i : Instr) (s t : State) (h : exec i s = .next t) :
    KeepsSticky s t ∨ (i = .reset ∧ s.port = .c) := by
  rcases exec_cases i s t h with rfl | rfl | ⟨-, -, hown⟩ | ⟨-, rfl⟩ | ⟨a, r, -, -, rfl⟩ | ⟨-, rfl⟩ | ⟨hi, hp, -⟩
  · exact .inl (raise_illegalCommand_keepsSticky s)
  · exact .inl (raise_halted_keepsSticky s)
  · left
    rcases hown with ⟨b, -, rfl⟩ | ⟨-, rfl⟩ | ⟨-, rfl⟩ | ⟨a, v, r, -, -, rfl⟩
    · exact pushByte_keepsSticky s b
    · exact .of_eq s.flush_cmdErr s.flush_ovf s.flush_fault
    · exact .of_eq s.resetRange_cmdErr s.resetRange_ovf s.resetRange_fault
    · exact (writeReg_keepsSticky s r v).trans (respond_keepsSticky _ 0)
  · exact .inl (respond_keepsSticky s 0)
  · exact .inl (respond_keepsSticky s _)
  · exact .inl (.of_eq rfl rfl rfl)
  · exact .inr ⟨hi, hp⟩

/-- A word keeps the sticky bits, unless it is the RESET command on the C-port: an illegal word raises
IllegalCommand, any other is its command. -/
theorem issue_keepsSticky (w : Word) (s t : State) (h : issue w s = .next t) (hw : ¬ ResetWord s.port w) :
    KeepsSticky s t := by
  rcases issue_cases w s t h with rfl | ⟨i, hd, he⟩
  · exact raise_illegalCommand_keepsSticky s
  · rcases exec_keepsSticky i s t he with hk | ⟨rfl, hp⟩
    · exact hk
    · exact absurd ⟨hd, hp⟩ hw

/-! ### The obligations -/

/-- Settles O10: RESET on the C-port aside, every word keeps the sticky bits. -/
theorem stickyBitsStayUntilReset : Obligations.StickyBitsStayUntilReset := by
  intro w s t h
  refine ⟨halted_iff s, fun hw => ?_⟩
  obtain ⟨hcmdErr, hovf, hfault⟩ := issue_keepsSticky w s t h hw
  exact ⟨hcmdErr, hovf, fun _ => hfault⟩

/-- Settles O23: `irq` is the conjunction of the two bits (R47). -/
theorem irqIsNewAndIe : Obligations.IrqIsNewAndIe := by
  intro s
  rw [State.irq, Bool.and_eq_true]

end Sys2Proof.StatusBits
end

section
/-! The command word (30_encoding.md): the must-be-zero bits (R83) and the reserved opcodes (R88) are refused, and the
O-port may issue IDLE, RD and SNAP only (R86). -/

namespace Sys2Proof.CommandWord

open Sys2Proof Sys2Proof.Machine Sys2Proof.Safety Sys2Proof.Laws

/-! ### The fields a row of the opcode map requires to be zero -/

/-- The row compares the `len` bits from `start` on, all of them, with zero (R82). -/
def RequiresZero (r : Row) (start len : Nat) : Bool :=
  r.mask.extractLsb' start len == BitVec.allOnes len && r.pattern.extractLsb' start len == 0

/-- What selects a row is zero wherever the row requires it. -/
theorem selects_false_of_field_ne_zero {r : Row} {w : Word} {start len : Nat}
    (hr : RequiresZero r start len = true) (hw : w.extractLsb' start len ≠ 0) : r.selects w = false := by
  obtain ⟨hmask, hpattern⟩ : r.mask.extractLsb' start len = BitVec.allOnes len ∧
      r.pattern.extractLsb' start len = 0 := by simpa [RequiresZero] using hr
  rw [Row.selects, beq_eq_false_iff_ne]
  intro hsel
  apply hw
  calc w.extractLsb' start len
      = (w &&& r.mask).extractLsb' start len := by
        rw [BitVec.extractLsb'_and, hmask, BitVec.and_allOnes]
    _ = 0 := by rw [hsel, hpattern]

/-- `Z`, bits 27:24, in every row. -/
theorem requiresZero_z : ∀ r ∈ opcodeMap, RequiresZero r 24 4 = true := by decide

/-- `A`, bits 23:16, in every row but WR and RD. -/
theorem requiresZero_a : ∀ r ∈ opcodeMap, Word.op r.pattern ≠ 0x4 → Word.op r.pattern ≠ 0x5 →
    RequiresZero r 16 8 = true := by decide

/-- `D`, bits 15:0, in every row but PUSH and WR. -/
theorem requiresZero_d : ∀ r ∈ opcodeMap, Word.op r.pattern ≠ 0x1 → Word.op r.pattern ≠ 0x4 →
    RequiresZero r 0 16 = true := by decide

/-- `D[15:8]` in the row of PUSH. -/
theorem requiresZero_pushHigh : ∀ r ∈ opcodeMap, Word.op r.pattern = 0x1 → RequiresZero r 8 8 = true := by decide

/-! ### Reserved opcodes, and what a refused word does -/

theorem pattern_op_not_reserved : ∀ r ∈ opcodeMap, ¬ (0x7 ≤ Word.op r.pattern ∧ Word.op r.pattern ≤ 0xE) := by decide

theorem raise_illegalCommand (s : State) : s.raise .illegalCommand = afterIllegal s := rfl

/-- A word the decoder refuses raises IllegalCommand, whatever the reason (R87). -/
theorem issue_of_decode_error {w : Word} {e : DecodeError} (h : decode w = .error e) (s : State) :
    issue w s = .next (afterIllegal s) := by
  rw [issue, h, raise_illegalCommand]

/-! ### Port rights and register addresses -/

/-- R86: a command outside the rights of the O-port raises IllegalCommand there. -/
theorem exec_notAllowedOnO {s : State} (hp : s.port = .o) (i : Instr) (hi : i.allowedOnO = false) :
    exec i s = .next (afterIllegal s) := by
  cases i with
  | push b => exact requireCPort_o s _ hp
  | flush => exact requireCPort_o s _ hp
  | rrst => exact requireCPort_o s _ hp
  | wr a v => exact requireCPort_o s _ hp
  | reset => exact requireCPort_o s _ hp
  | idle | rd | snap => cases hi

/-- The addresses of the map are 0x00 to 0x10, in order (R24). -/
theorem all_addrs : Reg.all.map Reg.addr = (List.range 17).map (BitVec.ofNat 8) := rfl

/-- The legal addresses of RD are those that name a register (R85). -/
theorem atAddr_isSome_iff (a : RegAddr) : (Reg.atAddr a).isSome = true ↔ a ≤ 0x10 := by
  have hmem : (Reg.atAddr a).isSome = true ↔ a ∈ Reg.all.map Reg.addr := by
    simp [Reg.atAddr, List.find?_isSome]
  rw [hmem, all_addrs]
  constructor
  · intro h
    obtain ⟨n, hn, rfl⟩ := List.mem_map.1 h
    have hlt := List.mem_range.1 hn
    bv_omega
  · intro h
    exact List.mem_map.2 ⟨a.toNat, List.mem_range.2 (by bv_omega), by simp⟩

/-- RD of a register answers with its value, on either port (R174). -/
theorem exec_rd_of_legal (s : State) (a : RegAddr) (h : a ≤ 0x10) :
    ∃ r, Reg.atAddr a = some r ∧ exec (.rd a) s = .next (s.respond (s.readReg r)) := by
  obtain ⟨r, hr⟩ := Option.isSome_iff_exists.1 ((atAddr_isSome_iff a).2 h)
  exact ⟨r, hr, by simp only [exec, execRd, hr]⟩

/-! ### The obligations -/

/-- Settles O4: the row of the word's own `OP` requires the field to be zero, the others have another `OP`. -/
theorem mustBeZeroBitsAreChecked : Obligations.MustBeZeroBitsAreChecked := by
  intro w s hop hbit
  have hrows : ∀ r ∈ opcodeMap, r.selects w = false := by
    intro r hr
    by_cases ho : Word.op w = Word.op r.pattern
    · rw [ho] at hbit
      rcases hbit with hz | ⟨hwr, hrd, ha⟩ | ⟨hpush, hwr, hd⟩ | ⟨hpush, hhigh⟩
      · exact selects_false_of_field_ne_zero (requiresZero_z r hr) hz
      · exact selects_false_of_field_ne_zero (requiresZero_a r hr hwr hrd) ha
      · exact selects_false_of_field_ne_zero (requiresZero_d r hr hpush hwr) hd
      · exact selects_false_of_field_ne_zero (requiresZero_pushHigh r hr hpush) hhigh
    · exact selects_false_of_op r w hr ho
  have hnot : ¬ (0x7 ≤ Word.op w ∧ Word.op w ≤ 0xE) := by bv_omega
  have hdecode : decode w = .error .mustBeZero := by rw [decode_error w hrows, if_neg hnot]
  exact ⟨hrows, hdecode, issue_of_decode_error hdecode s⟩

/-- Settles O5: no row of the opcode map has a reserved `OP`. -/
theorem reservedOpcodesAreRefused : Obligations.ReservedOpcodesAreRefused := by
  intro w s hlo hhi
  have hrows : ∀ r ∈ opcodeMap, r.selects w = false := fun r hr =>
    selects_false_of_op r w hr fun ho => pattern_op_not_reserved r hr (ho ▸ ⟨hlo, hhi⟩)
  have hdecode : decode w = .error .reservedOpcode := by rw [decode_error w hrows, if_pos ⟨hlo, hhi⟩]
  exact ⟨hdecode, issue_of_decode_error hdecode s⟩

/-- Settles O8: five commands lack the right; IDLE, SNAP and RD of a register have no check left to fail. -/
theorem observerPortRights : Obligations.ObserverPortRights := by
  intro s hp
  have hrefused := exec_notAllowedOnO hp
  refine ⟨fun b => hrefused (.push b) rfl, hrefused .flush rfl, hrefused .rrst rfl,
    fun a v => hrefused (.wr a v) rfl, hrefused .reset rfl, ⟨_, _, rfl, rfl, rfl⟩, fun a ha => ?_,
    ⟨_, _, rfl, rfl, rfl⟩⟩
  obtain ⟨r, -, hexec⟩ := exec_rd_of_legal s a ha
  exact ⟨_, _, hexec, rfl, rfl⟩

end Sys2Proof.CommandWord
end

section
/-! The frame synchronizer (40_synchronizer.md): the validation predicate and its two checks (R101 to R104), PUSH at the
cap (R106), the extraction loop (R107), FLUSH and IDLE (R111, R112). -/

namespace Sys2Proof.Synchronizer

open Sys2Proof Sys2Proof.Machine Sys2Proof.Safety Sys2Proof.Laws Sys2Proof.CommandWord

/-! ### The dispatch of PUSH and FLUSH -/

section
variable {s : State}

/-- On a running block PUSH on the C-port passes every check of the dispatch. -/
theorem exec_push_running (hp : s.port = .c) (hf : s.fault = 0) (b : Byte) :
    exec (.push b) s = .next (s.pushByte b) := by
  rw [exec, execPush, requireCPort_c s _ hp, requireRunning_running s _ hf]

theorem exec_flush_running (hp : s.port = .c) (hf : s.fault = 0) : exec .flush s = .next s.flush := by
  rw [exec, execFlush, requireCPort_c s _ hp, requireRunning_running s _ hf]

theorem exec_flush_halted (hp : s.port = .c) (hf : s.fault ≠ 0) : exec .flush s = .next (afterHalted s) := by
  rw [exec, execFlush, requireCPort_c s _ hp, requireRunning_halted s _ hf]
  rfl

end

/-! ### Commands of one word -/

theorem mnemonic_instr (m : Mnemonic) (w : Word) : (m.instr w).mnemonic = m := by
  cases m <;> rfl

/-- A row whose mask is full selects its pattern and no other word. -/
theorem eq_pattern_of_selects {r : Row} {w : Word} (hmask : r.mask = BitVec.allOnes 32)
    (h : r.selects w = true) : w = r.pattern := by
  rwa [Row.selects, hmask, BitVec.and_allOnes, beq_iff_eq] at h

/-- A command whose row compares every bit of the word is the command of one word. -/
theorem decode_eq_ok_iff_of_fullMask {i : Instr} {p : Word} (hp : decode p = .ok i)
    (hrow : ∀ r ∈ opcodeMap, r.mnemonic = i.mnemonic → r.mask = BitVec.allOnes 32 ∧ r.pattern = p) (w : Word) :
    decode w = .ok i ↔ w = p := by
  constructor
  · intro h
    obtain ⟨r, hr, hsel, rfl⟩ := decode_ok w i h
    obtain ⟨hmask, rfl⟩ := hrow r hr (mnemonic_instr r.mnemonic w).symm
    exact eq_pattern_of_selects hmask hsel
  · rintro rfl
    exact hp

/-! ### The checks of a window -/

/-- The ThermalFrame of a window lists `sample(W, 0)` to `sample(W, 1023)` (R65, R131). -/
theorem samples_eq_map_sampleAt (o : ByteOrder) {w : List Byte} (h : w.length = frameBytes) :
    samples o w = (List.range nSamples).map (sampleAt o w) := by
  rw [frameBytes_eq] at h
  apply List.ext_getElem?
  intro i
  by_cases hi : i < nSamples
  · rw [samples_getElem? o w i (by rw [nSamples_eq] at hi; omega)]
    simp [hi]
  · rw [List.getElem?_eq_none (by rw [samples_length, h]; rw [nSamples_eq] at hi; omega)]
    simpa using hi

/-- What a well-formed `Cfg` says of the marker: it has at most four bytes and stays inside the window (R9). -/
theorem marker_bounds_of_wf {c : Cfg} (h : c.wf = true) :
    c.markLen.toNat ≤ 4 ∧ c.markOff.toNat + c.markLen.toNat ≤ frameBytes := by
  simp only [Cfg.wf, Cfg.markerFits, Bool.and_eq_true, decide_eq_true_eq] at h
  obtain ⟨⟨⟨-, hlen⟩, hfits⟩, -⟩ := h
  exact ⟨hlen, hfits⟩

theorem markByte_eq_getElem (c : Cfg) {j : Nat} (h : j < 4) : c.markByte j = c.mark[j] := by
  rw [Cfg.markByte, Vector.getElem?_eq_getElem h, Option.getD_some]

/-- R101: an enabled check must hold, a disabled one need not. -/
theorem valid_eq_true_iff (c : Cfg) (w : List Byte) :
    valid c w = true ↔ (c.rangeEn = true → rangeOk c w = true) ∧ (c.markEn = true → markOk c w = true) := by
  simp only [valid, Bool.and_eq_true, Bool.or_eq_true, Bool.not_eq_true', ← Bool.not_eq_true, imp_iff_not_or]

/-! ### The append -/

/-- R106: at the cap PUSH is PUSH from the state in which the oldest byte has been dropped. -/
theorem acceptByte_full_eq_acceptByte_dropped (s : State) (b first : Byte) (rest : List Byte)
    (hbuf : s.buf = first :: rest) (hcap : s.buf.length = s.cap.toNat) :
    s.acceptByte b = { s.discardOldest with ovf := true }.acceptByte b := by
  have hroom : rest.length ≠ s.cap.toNat := by
    rw [hbuf, List.length_cons] at hcap
    omega
  rw [acceptByte_atCap s b hcap, State.discardOldest_cons s first rest hbuf, acceptByte_below _ b hroom]

/-- R106: `BUF` never grows past a `CAP` that is not zero. -/
theorem acceptByte_buf_length_le (s : State) (b : Byte) (hpos : 0 < s.cap.toNat)
    (h : s.buf.length ≤ s.cap.toNat) : (s.acceptByte b).buf.length ≤ s.cap.toNat := by
  by_cases hcap : s.buf.length = s.cap.toNat
  · cases hbuf : s.buf with
    | nil => rw [hbuf, List.length_nil] at hcap; omega
    | cons first rest =>
      rw [acceptByte_atCap s b hcap, State.discardOldest_cons s first rest hbuf, ← hcap, hbuf]
      simp
  · rw [acceptByte_below s b hcap, State.appendByte_buf, List.length_append, List.length_singleton]
    omega

/-- The append moves `POS` forward, if at all. -/
theorem pos_le_acceptByte_pos (s : State) (b : Byte) : s.pos ≤ (s.acceptByte b).pos := by
  by_cases hcap : s.buf.length = s.cap.toNat
  · rw [acceptByte_atCap s b hcap, State.appendByte_pos]
    cases hbuf : s.buf with
    | nil => simp [State.discardOldest, hbuf]
    | cons first rest => rw [State.discardOldest_cons s first rest hbuf]; exact Nat.le_succ _
  · rw [acceptByte_below s b hcap, State.appendByte_pos]

/-! ### One pass of the extraction loop -/

theorem published_pos (s : State) : (published s).pos = s.pos + frameBytes := by
  simp [published]

theorem resync_pos_of_ne_nil {s : State} (h : s.buf ≠ []) : s.resync.pos = s.pos + 1 := by
  obtain ⟨first, rest, hbuf⟩ := List.exists_cons_of_ne_nil h
  rw [resync_pos, State.discardOldest_cons s first rest hbuf]

theorem loopBody_ends {s : State} (h : frameBytes ≤ s.buf.length) : ∃ s' k, s.loopBody = .ended s' k := by
  rcases loopBody_cases s h with ⟨-, he⟩ | ⟨-, he⟩ <;> exact ⟨_, _, he⟩

section
variable {s s' : State} {k : Nat}

/-- R107: a pass removes the window if it is valid and the oldest byte if it is not, and moves `POS` by as much. -/
theorem loopBody_removes (h : frameBytes ≤ s.buf.length) (hb : s.loopBody = .ended s' k) :
    (valid s.cfg (s.buf.take frameBytes) = true ∧ s'.buf = s.buf.drop frameBytes ∧ s'.pos = s.pos + frameBytes) ∨
      (valid s.cfg (s.buf.take frameBytes) = false ∧ s'.buf = s.buf.drop 1 ∧ s'.pos = s.pos + 1) := by
  rcases loopBody_cases s h with ⟨hv, he⟩ | ⟨hv, he⟩ <;> rw [he] at hb <;> cases hb
  · exact .inl ⟨hv, published_buf s, published_pos s⟩
  · have hne : s.buf ≠ [] := List.ne_nil_of_length_pos (by rw [frameBytes_eq] at h; omega)
    exact .inr ⟨hv, by rw [resync_buf, List.drop_one], resync_pos_of_ne_nil hne⟩

/-- R107: every pass strictly increases `POS`. -/
theorem loopBody_advances (h : frameBytes ≤ s.buf.length) (hb : s.loopBody = .ended s' k) : s.pos < s'.pos := by
  rcases loopBody_removes h hb with ⟨-, -, hpos⟩ | ⟨-, -, hpos⟩
  · rw [hpos, frameBytes_eq]; omega
  · rw [hpos]; omega

end

/-! ### The offsets the loop examines -/

theorem examined_stop (fuel : Nat) {s : State} (h : s.buf.length < frameBytes) : examined fuel s = [] := by
  cases fuel with
  | zero => rfl
  | succ f => rw [examined, if_neg (Nat.not_le.2 h)]

theorem examined_pass (fuel : Nat) {s s' : State} {k : Nat} (h : frameBytes ≤ s.buf.length)
    (hb : s.loopBody = .ended s' k) : examined (fuel + 1) s = s.pos :: examined fuel s' := by
  rw [examined, if_pos h, hb]

/-- A `BUF` of `L` bytes has `L + 1 - FRAME_BYTES` windows, and the loop examines each at most once. -/
theorem examined_length_le (fuel : Nat) (s : State) :
    (examined fuel s).length ≤ s.buf.length + 1 - frameBytes := by
  induction fuel generalizing s with
  | zero => exact Nat.zero_le _
  | succ f ih =>
    by_cases hl : frameBytes ≤ s.buf.length
    · obtain ⟨s', k, hb⟩ := loopBody_ends hl
      have hshorter := loopBody_shortens s s' k hl hb
      have hrest := ih s'
      rw [examined_pass f hl hb, List.length_cons]
      omega
    · rw [examined_stop _ (Nat.not_le.1 hl)]
      exact Nat.zero_le _

/-- The offsets a run of the loop examines, then the `POS` it ends at, increase strictly from the `POS` it starts at. -/
theorem drain_examined_increasing (fuel : Nat) (s t : State) (n m : Nat) (h : State.drain fuel s n = .done t m) :
    (∀ p ∈ examined fuel s ++ [t.pos], s.pos ≤ p) ∧ (examined fuel s ++ [t.pos]).Pairwise (· < ·) := by
  induction fuel generalizing s n with
  | zero => cases h; simp [examined]
  | succ f ih =>
    by_cases hl : frameBytes ≤ s.buf.length
    · obtain ⟨s', k, hb⟩ := loopBody_ends hl
      rw [drain_pass f s s' n k hl hb] at h
      obtain ⟨hfrom, hincreasing⟩ := ih s' (n + k) h
      have hafter : ∀ p ∈ examined f s' ++ [t.pos], s.pos < p := fun p hp =>
        (loopBody_advances hl hb).trans_le (hfrom p hp)
      rw [examined_pass f hl hb, List.cons_append]
      exact ⟨List.forall_mem_cons.2 ⟨Nat.le_refl _, fun p hp => (hafter p hp).le⟩,
        List.pairwise_cons.2 ⟨hafter, hincreasing⟩⟩
    · rw [drain_stop _ s n (Nat.not_le.1 hl)] at h
      cases h
      simp [examined_stop _ (Nat.not_le.1 hl)]

/-- The offsets a PUSH examines increase strictly, from its first `POS` on and before its last. -/
theorem pushExamines_increasing (s : State) (b : Byte) :
    (pushExamines s b).Pairwise (· < ·) ∧ ∀ p ∈ pushExamines s b, s.pos ≤ p ∧ p < (s.pushByte b).pos := by
  obtain ⟨t, n, hdrain, -, hpush⟩ := pushByte_cases s b
  obtain ⟨hfrom, hincreasing⟩ := drain_examined_increasing _ _ t 0 n hdrain
  obtain ⟨hoffsets, -, hlast⟩ := List.pairwise_append.1 hincreasing
  refine ⟨hoffsets, fun p hp => ⟨?_, ?_⟩⟩
  · exact (pos_le_acceptByte_pos s b).trans (hfrom p (List.mem_append_left _ hp))
  · rw [hpush, State.respond_pos]
    exact hlast p hp t.pos (List.mem_singleton_self _)

/-- Below the cap a PUSH that finds `L` bytes examines at most `L + 2 - FRAME_BYTES` windows. -/
theorem pushExamines_length_le (s : State) (b : Byte) (h : s.buf.length < s.cap.toNat) :
    (pushExamines s b).length ≤ s.buf.length + 2 - frameBytes := by
  have hlen : (s.acceptByte b).buf.length = s.buf.length + 1 := by
    rw [acceptByte_below s b h.ne, State.appendByte_buf, List.length_append, List.length_singleton]
  calc (pushExamines s b).length
      ≤ (s.acceptByte b).buf.length + 1 - frameBytes := examined_length_le _ _
    _ = s.buf.length + 2 - frameBytes := by rw [hlen]

/-! ### The obligations -/

/-- Settles O30: the check runs over the list of the 1024 samples of the window. -/
theorem rangeCheckIsPerSample : Obligations.RangeCheckIsPerSample := by
  intro c w h
  rw [rangeOk, samples_eq_map_sampleAt c.byteOrder h]
  simp only [List.all_map, List.all_eq_true, List.mem_range, Function.comp_apply, Bool.and_eq_true,
    decide_eq_true_eq, BitVec.le_def]

/-- Settles O31: both sides compare `MARK_LEN` bytes index by index, and a well-formed marker lies in the window. -/
theorem markerCheckComparesTheMarkerBytes : Obligations.MarkerCheckComparesTheMarkerBytes := by
  intro c w hwf hw
  obtain ⟨hlen, hfits⟩ := marker_bounds_of_wf hwf
  have hbyte : ∀ j < c.markLen.toNat,
      (w.getD (c.markOff.toNat + j) 0 = c.markByte j ↔ (w.drop c.markOff.toNat)[j]? = c.mark.toList[j]?) := by
    intro j hj
    have hin : c.markOff.toNat + j < w.length := by omega
    rw [markByte_eq_getElem c (by omega)]
    simp [hin, List.getD, show j < 4 by omega]
  have hcheck : markOk c w = true ↔
      ∀ j < c.markLen.toNat, (w.drop c.markOff.toNat)[j]? = c.mark.toList[j]? := by
    simp only [markOk, List.all_eq_true, List.mem_range, beq_iff_eq]
    exact forall₂_congr hbyte
  rw [hcheck, List.ext_getElem?_iff]
  refine forall_congr' fun j => ?_
  by_cases hj : j < c.markLen.toNat
  · simp [hj]
  · simp [hj]

/-- Settles O42: at the cap both sides push onto the same state, and the dropped byte has made the room. -/
theorem pushAtTheCapDropsTheOldestByte : Obligations.PushAtTheCapDropsTheOldestByte := by
  refine ⟨fun s b first rest hp hf hbuf hcap => ?_, fun s b hcap hlen => ⟨?_, s.acceptByte_sync b⟩, rfl⟩
  · have haccept := acceptByte_full_eq_acceptByte_dropped s b first rest hbuf hcap
    rw [State.discardOldest_cons s first rest hbuf] at haccept
    rw [exec_push_running hp hf b, exec_push_running (by exact hp) (by exact hf) b]
    simp only [State.pushByte, haccept]
  · have hframe := frameBytes_le_of_capOk s.cap hcap
    exact acceptByte_buf_length_le s b (by rw [frameBytes_eq] at hframe; omega) hlen

/-- Settles O43: every pass moves `POS` forward and shortens `BUF`, by the induction over the passes. -/
theorem extractionLoopMakesForwardProgress : Obligations.ExtractionLoopMakesForwardProgress := by
  refine ⟨fun s s' k => loopBody_removes, fun s t b hp hf hexec => ?_, pushExamines_length_le,
    fun s b hcap hinv => ?_⟩
  · rw [exec_push_running hp hf b] at hexec
    cases hexec
    exact ⟨pushByte_buf_length s b, pushExamines_increasing s b⟩
  · have hframe := frameBytes_le_of_capOk s.cap hcap
    obtain ⟨hlen, -⟩ := hinv
    rw [frameBytes_eq] at hframe hlen
    have hbound := pushExamines_length_le s b (by omega)
    rw [frameBytes_eq] at hbound
    omega

/-- Settles O13: IDLE has no check to fail, and its row compares every bit. -/
theorem idleWritesNoState : Obligations.IdleWritesNoState :=
  ⟨fun _ => rfl, decode_eq_ok_iff_of_fullMask (by decide) (by decide)⟩

/-- Settles O14: the three outcomes of the dispatch; the row of FLUSH compares every bit. -/
theorem flushResetsTheSynchronizerOnly : Obligations.FlushResetsTheSynchronizerOnly :=
  ⟨fun _ hp hf => exec_flush_running hp hf, fun _ hp hf => exec_flush_halted hp hf,
    fun _ hp => exec_notAllowedOnO hp .flush rfl, decode_eq_ok_iff_of_fullMask (by decide) (by decide)⟩

/-- Settles O60: a disabled check drops out of the conjunction, an enabled one stays. -/
theorem validIsTheConjunctionOfTheEnabledChecks : Obligations.ValidIsTheConjunctionOfTheEnabledChecks := by
  intro c w _
  refine ⟨valid_eq_true_iff c w, fun hr hm => ?_, fun hr hm => ?_, fun hr hm => ?_, fun hr hm => ?_⟩
  · simp only [valid, hr, hm, Bool.not_false, Bool.true_or, Bool.and_true]
  · simp only [valid, hr, hm, Bool.not_true, Bool.false_or, Bool.not_false, Bool.true_or, Bool.and_true]
  · simp only [valid, hr, hm, Bool.not_false, Bool.true_or, Bool.not_true, Bool.false_or, Bool.true_and]
  · simp only [valid, hr, hm, Bool.not_true, Bool.false_or]

end Sys2Proof.Synchronizer
end

section
/-! The sample decoder (41_sample_decoder.md): the value of the sample a pair of bytes makes in either byte order, and
the 1024 samples of a window (R131). -/

namespace Sys2Proof.SampleDecoder

open Sys2Proof Sys2Proof.Machine Sys2Proof.Safety Sys2Proof.Laws

/-- Two bytes side by side read as base-256 digits, the left one the more significant. -/
theorem byte_append_toNat (hi lo : Byte) : (hi ++ lo : Sample).toNat = 256 * hi.toNat + lo.toNat := by
  rw [BitVec.toNat_append, ← Nat.shiftLeft_add_eq_or_of_lt lo.isLt, Nat.shiftLeft_eq, Nat.mul_comm]

/-- `BYTE_ORDER = 0` (R131): the low byte arrives first. -/
theorem joinBytes_little_toNat (first second : Byte) :
    (joinBytes .little first second).toNat = first.toNat + 256 * second.toNat := by
  rw [joinBytes, byte_append_toNat, Nat.add_comm]

/-- `BYTE_ORDER = 1` (R131): the high byte arrives first. -/
theorem joinBytes_big_toNat (first second : Byte) :
    (joinBytes .big first second).toNat = 256 * first.toNat + second.toNat :=
  byte_append_toNat first second

/-- Sample `i` is made of the window bytes `2i` and `2i + 1`, in the order in which they arrived. -/
theorem samples_getElem?_eq_joinBytes (o : ByteOrder) {w : List Byte} {i : Nat} {a b : Byte}
    (ha : w[2 * i]? = some a) (hb : w[2 * i + 1]? = some b) :
    (samples o w)[i]? = some (joinBytes o a b) := by
  obtain ⟨hin, -⟩ := List.getElem?_eq_some_iff.mp hb
  rw [samples_getElem? o w i hin, sampleAt, List.getD_eq_getElem?_getD, List.getD_eq_getElem?_getD, ha, hb]
  rfl

theorem samples_length_of_window (o : ByteOrder) {w : List Byte} (h : w.length = frameBytes) :
    (samples o w).length = nSamples := by
  rw [samples_length, h, frameBytes_eq, nSamples_eq]

/-- Settles O28: the sample at index `i` is the pair at `2i` joined in the configured order. -/
theorem decodePairsBytesInTheConfiguredOrder : Obligations.DecodePairsBytesInTheConfiguredOrder := by
  refine fun c w => ⟨fun h => ⟨samples c.byteOrder w, decodeFrame_ok c w h, samples_length_of_window _ h, ?_⟩,
    decodeFrame_lengthFault c w⟩
  intro i x a b hx ha hb
  rw [samples_getElem?_eq_joinBytes c.byteOrder ha hb] at hx
  obtain rfl := Option.some.inj hx
  constructor
  · intro hlittle
    rw [hlittle, joinBytes_little_toNat]
  · intro hbig
    rw [hbig, joinBytes_big_toNat]

end Sys2Proof.SampleDecoder
end

section
/-! The colour mapper (42_colour_mapper.md): RRST (R151), the clamp and the fixed-point normalisation (R143 to R145), the
palette lookup of a sample and of a frame (R142, R144), and the bounds a frame sets in AUTO mode (R140). -/

namespace Sys2Proof.ColourMapper

open Sys2Proof Sys2Proof.Machine Sys2Proof.Safety Sys2Proof.Laws Sys2Proof.CommandWord Sys2Proof.Synchronizer

/-! ### The dispatch of RRST -/

section
variable {s : State}

theorem exec_rrst_running (hp : s.port = .c) (hf : s.fault = 0) : exec .rrst s = .next s.resetRange := by
  rw [exec, execRrst, requireCPort_c s _ hp, requireRunning_running s _ hf]

theorem exec_rrst_halted (hp : s.port = .c) (hf : s.fault ≠ 0) : exec .rrst s = .next (afterHalted s) := by
  rw [exec, execRrst, requireCPort_c s _ hp, requireRunning_halted s _ hf]
  rfl

end

/-! ### The clamp (R143) -/

section
variable {x lo hi : Sample}

theorem clampSample_bounds (h : lo < hi) :
    lo.toNat ≤ clampSample x lo hi ∧ clampSample x lo hi ≤ hi.toNat := by
  have hlt := BitVec.lt_def.1 h
  rw [clampSample]
  omega

theorem clampSample_of_le_lo (h : lo < hi) (hx : x ≤ lo) : clampSample x lo hi = lo.toNat := by
  rw [clampSample, Nat.max_eq_right hx, Nat.min_eq_left (BitVec.lt_def.1 h).le]

theorem clampSample_of_hi_le (hx : hi ≤ x) : clampSample x lo hi = hi.toNat := by
  rw [clampSample, Nat.min_eq_right ((BitVec.le_def.1 hx).trans (Nat.le_max_left _ _))]

/-- A sample inside the range is not clamped. -/
theorem clampSample_of_mem (hlo : lo ≤ x) (hhi : x ≤ hi) : clampSample x lo hi = x.toNat := by
  rw [clampSample, Nat.max_eq_left hlo, Nat.min_eq_left hhi]

/-! ### The fixed-point normalisation (R145) -/

/-- The clamped sample is at most the whole span above `lo`, so the quotient is at most 255. -/
theorem tableIndex_le (h : lo < hi) : tableIndex x lo hi ≤ 255 := by
  obtain ⟨-, hle⟩ := clampSample_bounds (x := x) h
  exact Nat.div_le_of_le_mul (Nat.mul_le_mul_right 255 (Nat.sub_le_sub_right hle _))

theorem tableIndex_lt_lutSize (h : lo < hi) : tableIndex x lo hi < lutSize :=
  Nat.lt_succ_of_le (tableIndex_le h)

theorem tableIndex_of_le_lo (h : lo < hi) (hx : x ≤ lo) : tableIndex x lo hi = 0 := by
  rw [tableIndex, clampSample_of_le_lo h hx, Nat.sub_self, Nat.zero_mul, Nat.zero_div]

theorem tableIndex_of_hi_le (h : lo < hi) (hx : hi ≤ x) : tableIndex x lo hi = 255 := by
  rw [tableIndex, clampSample_of_hi_le hx, Nat.mul_div_cancel_left _ (Nat.sub_pos_of_lt (BitVec.lt_def.1 h))]

/-! ### The palette lookup (R144, R146) -/

variable (c : Cfg)

theorem lut_eq_palette {k : Nat} (h : k < lutSize) : lut c k = c.palette[k] := by
  rw [lut, Vector.getElem?_eq_getElem h, Option.getD_some]

/-- R149: a degenerate range maps every sample to the first colour. -/
theorem mapSample_of_hi_le_lo (h : hi ≤ lo) : mapSample c x lo hi = c.palette[0] := by
  rw [mapSample, if_pos h, lut_eq_palette]

theorem mapSample_of_lo_lt_hi (h : lo < hi) :
    mapSample c x lo hi = c.palette[tableIndex x lo hi]'(tableIndex_lt_lutSize h) := by
  rw [mapSample, if_neg (BitVec.not_le.2 h), lut_eq_palette]

theorem mapFrame_getElem? (t : List Sample) (i : Nat) :
    (mapFrame c t lo hi)[i]? = t[i]?.map fun x => mapSample c x lo hi :=
  List.getElem?_map

end

/-! ### The bounds of a frame (R140) -/

section
variable (a b y : Sample)

theorem le_sampleMin_iff : y ≤ sampleMin a b ↔ y ≤ a ∧ y ≤ b := by
  rw [sampleMin]
  split <;> bv_omega

theorem sampleMax_le_iff : sampleMax a b ≤ y ↔ a ≤ y ∧ b ≤ y := by
  rw [sampleMax]
  split <;> bv_omega

variable (t : List Sample)

/-- The fold of `frameMin` is the greatest lower bound of its start and the samples. -/
theorem le_foldl_sampleMin_iff : y ≤ t.foldl sampleMin a ↔ y ≤ a ∧ ∀ x ∈ t, y ≤ x := by
  induction t generalizing a with
  | nil => simp
  | cons b t ih => rw [List.foldl_cons, ih, le_sampleMin_iff, and_assoc, List.forall_mem_cons]

/-- The fold of `frameMax` is the least upper bound of its start and the samples. -/
theorem foldl_sampleMax_le_iff : t.foldl sampleMax a ≤ y ↔ a ≤ y ∧ ∀ x ∈ t, x ≤ y := by
  induction t generalizing a with
  | nil => simp
  | cons b t ih => rw [List.foldl_cons, ih, sampleMax_le_iff, and_assoc, List.forall_mem_cons]

end

theorem frameMin_le {t : List Sample} {x : Sample} (h : x ∈ t) : frameMin t ≤ x :=
  ((le_foldl_sampleMin_iff _ _ t).1 (BitVec.le_refl (frameMin t))).2 x h

theorem le_frameMax {t : List Sample} {x : Sample} (h : x ∈ t) : x ≤ frameMax t :=
  ((foldl_sampleMax_le_iff _ _ t).1 (BitVec.le_refl (frameMax t))).2 x h

/-! ### The obligations -/

/-- Settles O34: the clamp puts the sample between the bounds, and `hi` is a 16-bit word. -/
theorem tableIndexStaysInTheTable : Obligations.TableIndexStaysInTheTable := by
  intro x lo hi h
  have hlt := BitVec.lt_def.1 h
  have hword := hi.isLt
  obtain ⟨hlo, hhi⟩ := clampSample_bounds (x := x) h
  refine ⟨hlo, Nat.sub_le_sub_right hhi _, ?_, ?_, Nat.sub_pos_of_lt hlt, rfl, tableIndex_le h⟩ <;> omega

/-- Settles O35: outside the range the index is 0 or 255, and a frame lies within its own bounds. -/
theorem clampedSamplesTakeTheEndColours : Obligations.ClampedSamplesTakeTheEndColours := by
  refine ⟨fun c x lo hi h => ⟨fun hx => ?_, fun hx => ?_⟩,
    fun t x hx => clampSample_of_mem (frameMin_le hx) (le_frameMax hx)⟩
  · simp only [mapSample_of_lo_lt_hi c h, tableIndex_of_le_lo h hx]
  · simp only [mapSample_of_lo_lt_hi c h, tableIndex_of_hi_le h hx]

/-- Settles O15: the three outcomes of the dispatch; the row of RRST compares every bit. -/
theorem rrstRestoresTheDefaultSpan : Obligations.RrstRestoresTheDefaultSpan :=
  ⟨fun _ hp hf => exec_rrst_running hp hf, fun _ hp hf => exec_rrst_halted hp hf,
    fun _ hp => exec_notAllowedOnO hp .rrst rfl, decode_eq_ok_iff_of_fullMask (by decide) (by decide), rfl, rfl⟩

/-- Settles O33: the two ranges of R144, the second by the table index of R145; a frame is mapped as a list. -/
theorem mapSampleIsTheSpecFormula : Obligations.MapSampleIsTheSpecFormula :=
  ⟨fun c _ _ _ => ⟨fun h => mapSample_of_hi_le_lo c h,
      fun h => ⟨tableIndex_lt_lutSize (BitVec.lt_def.2 h), mapSample_of_lo_lt_hi c (BitVec.lt_def.2 h)⟩⟩,
    fun c t _ _ i => mapFrame_getElem? c t i⟩

end Sys2Proof.ColourMapper
end

section
/-! The control commands (43_control.md): what RD of the composed registers `CTRL`, `STATUS` and `CFG0` returns (R175),
and SNAP (R176). -/

namespace Sys2Proof.ControlCommands

open Sys2Proof Sys2Proof.Machine Sys2Proof.Synchronizer

/-! ### The fields of a register as the digits of its value -/

section
variable {m n : Nat} (hi : BitVec m) (lo : BitVec n)

/-- Two fields side by side are two digits, the right one of base `2 ^ n`. -/
theorem append_toNat_eq_add : (hi ++ lo).toNat = 2 ^ n * hi.toNat + lo.toNat := by
  rw [BitVec.toNat_append, ← Nat.shiftLeft_add_eq_or_of_lt lo.isLt, Nat.shiftLeft_eq, Nat.mul_comm]

/-- A flag to the right of a field is its last binary digit. -/
theorem append_ofBool_toNat (b : Bool) : (hi ++ BitVec.ofBool b).toNat = 2 * hi.toNat + b.toNat := by
  rw [append_toNat_eq_add, BitVec.toNat_ofBool, Nat.pow_one]

end

section
variable (s : State)

/-- R25: `{IE, PIN}`. -/
theorem ctrlBits_toNat : s.ctrlBits.toNat = s.pin.toNat + 2 * s.ie.toNat := by
  rw [State.ctrlBits, append_ofBool_toNat, BitVec.toNat_ofBool, Nat.add_comm]

/-- R26: `{FAULT, OVF, CMD_ERR, NEW, DISP_VALID, STATE}`, `STATE` two bits wide. -/
theorem statusBits_toNat : s.statusBits.toNat =
    s.sync.bits.toNat + 4 * s.dispValid.toNat + 8 * s.new.toNat + 16 * s.cmdErr.toNat + 32 * s.ovf.toNat +
      64 * s.fault.toNat := by
  simp only [State.statusBits, append_toNat_eq_add _ s.sync.bits, append_ofBool_toNat]
  omega

/-- R32: `MARK_LEN - 1` takes two bits, for the legal lengths 1 to 4. -/
theorem markLenField_toNat {k : BitVec 3} (hpos : 1 ≤ k.toNat) (hle : k.toNat ≤ 4) :
    ((k - 1).setWidth 2).toNat = k.toNat - 1 := by
  have hsub : (k - 1).toNat = k.toNat - 1 := BitVec.toNat_sub_of_le (BitVec.le_def.2 hpos)
  rw [BitVec.toNat_setWidth, hsub]
  omega

/-- R32: `{MARK_LEN - 1, MARK_EN, RANGE_EN, BYTE_ORDER}`. -/
theorem cfg0Bits_toNat (hpos : 1 ≤ s.cfg.markLen.toNat) (hle : s.cfg.markLen.toNat ≤ 4) : s.cfg0Bits.toNat =
    (byteOrderBit s.cfg.byteOrder).toNat + 2 * s.cfg.rangeEn.toNat + 4 * s.cfg.markEn.toNat +
      8 * (s.cfg.markLen.toNat - 1) := by
  simp only [State.cfg0Bits, append_toNat_eq_add _ (byteOrderBit s.cfg.byteOrder), append_ofBool_toNat,
    markLenField_toNat hpos hle]
  omega

/-- R176: `{NEW, DISP_VALID}`. -/
theorem snapBits_toNat : s.snapBits.toNat = s.dispValid.toNat + 2 * s.new.toNat := by
  rw [State.snapBits, append_ofBool_toNat, BitVec.toNat_ofBool, Nat.add_comm]

end

/-! ### The obligations -/

/-- Settles O18: RD extends the composed bits by zeros, so each register has the value of its own fields. -/
theorem composedRegistersReadTheirFields : Obligations.ComposedRegistersReadTheirFields := by
  refine ⟨fun s => ⟨?_, ?_, fun hpos hle => ?_⟩, rfl, rfl, rfl, rfl, rfl⟩
  · rw [State.readReg, BitVec.toNat_setWidth_of_le (by decide), ctrlBits_toNat]
  · rw [State.readReg, BitVec.toNat_setWidth_of_le (by decide), statusBits_toNat]
  · rw [State.readReg, BitVec.toNat_setWidth_of_le (by decide), cfg0Bits_toNat s hpos hle]

/-- Settles O20: SNAP has no check to fail and answers with its two bits; its row compares every bit. -/
theorem snapReturnsTheSlotAndClearsNew : Obligations.SnapReturnsTheSlotAndClearsNew := by
  refine ⟨fun s => ⟨s.snapBits.setWidth 32, ?_, rfl⟩, decode_eq_ok_iff_of_fullMask (by decide) (by decide)⟩
  rw [BitVec.toNat_setWidth_of_le (by decide), snapBits_toNat]

end Sys2Proof.ControlCommands
end

section
/-! The exceptions (60_exceptions.md): the words that raise IllegalCommand (R191), the entry of LengthFault and its
unreachability from PUSH (R192), and the commands a halted block refuses (R193). -/

namespace Sys2Proof.Exceptions

open Sys2Proof Sys2Proof.Machine Sys2Proof.Safety Sys2Proof.Laws
open Sys2Proof.CommandWord Sys2Proof.Synchronizer Sys2Proof.ColourMapper Sys2Proof.StatusBits

/-! ### Register addresses (30_encoding.md R85) -/

/-- The address check of WR is its legality: the addresses of `CTRL`, `PR_MIN` and `PR_MAX`. -/
theorem wf_wr_eq_atAddr_isSome (a : RegAddr) (v : Sample) :
    (Instr.wr a v).wf = (WritableReg.atAddr a).isSome := by
  simp only [Instr.wf, WritableReg.atAddr]
  split_ifs <;> simp_all

/-- The address check of RD is its legality: the addresses of the map. -/
theorem wf_rd_eq_atAddr_isSome (a : RegAddr) : (Instr.rd a).wf = (Reg.atAddr a).isSome := by
  rw [Bool.eq_iff_iff, atAddr_isSome_iff, Instr.wf, decide_eq_true_iff]

/-! ### The dispatch of WR and RD, by the address -/

section
variable {s : State} {a : RegAddr}

theorem exec_wr_of_writable {r : WritableReg} (h : WritableReg.atAddr a = some r) (v : Sample) :
    exec (.wr a v) s = requireCPort s (requireRunning s (.next ((s.writeReg r v).respond 0))) := by
  simp only [exec, execWr, h]

/-- A refused address is illegal on either port: the port check and the address check raise the same exception. -/
theorem exec_wr_of_refused (h : WritableReg.atAddr a = none) (v : Sample) :
    exec (.wr a v) s = .next (afterIllegal s) := by
  simp only [exec, execWr, h]
  cases hp : s.port with
  | c => exact requireCPort_c s _ hp
  | o => exact requireCPort_o s _ hp

theorem exec_rd_of_refused (h : Reg.atAddr a = none) : exec (.rd a) s = .next (afterIllegal s) := by
  simp only [exec, execRd, h, raise_illegalCommand]

end

/-! ### The words that raise IllegalCommand (R191) -/

/-- A command with a refused register address raises IllegalCommand on either port. -/
theorem exec_notWf (s : State) (i : Instr) (h : i.wf = false) : exec i s = .next (afterIllegal s) := by
  cases i with
  | wr a v =>
    rw [wf_wr_eq_atAddr_isSome, Option.isSome_eq_false_iff, Option.isNone_iff_eq_none] at h
    exact exec_wr_of_refused h v
  | rd a =>
    rw [wf_rd_eq_atAddr_isSome, Option.isSome_eq_false_iff, Option.isNone_iff_eq_none] at h
    exact exec_rd_of_refused h
  | idle | push | flush | rrst | snap | reset => cases h

/-- The command completes with a response other than IllegalCommand. -/
def RespondsLegally (x : Result) : Prop :=
  ∃ t r, x = .next t ∧ t.resp = some r ∧ r.code ≠ .illegalCommand

theorem respondsLegally_respond (t : State) (d : Word) : RespondsLegally (.next (t.respond d)) :=
  ⟨_, _, rfl, rfl, nofun⟩

/-- With the port right a command either is refused with Halted or responds (OK, `d`). -/
theorem respondsLegally_guarded {s : State} (hp : s.port = .c) (t : State) (d : Word) :
    RespondsLegally (requireCPort s (requireRunning s (.next (t.respond d)))) := by
  rw [requireCPort_c s _ hp]
  by_cases hf : s.fault = 0
  · rw [requireRunning_running s _ hf]
    exact respondsLegally_respond t d
  · rw [requireRunning_halted s _ hf]
    exact ⟨_, _, rfl, rfl, nofun⟩

/-- A command that the O-port may not issue has its port right on the C-port only. -/
theorem port_eq_c_of_right {s : State} {i : Instr} (hi : i.allowedOnO = false)
    (hright : s.port = .o → i.allowedOnO = true) : s.port = .c := by
  cases hp : s.port with
  | c => rfl
  | o => rw [hright hp] at hi; cases hi

/-- A command with a legal address, on a port that may issue it, responds with another code than IllegalCommand. -/
theorem exec_respondsLegally (s : State) (i : Instr) (hwf : i.wf = true)
    (hright : s.port = .o → i.allowedOnO = true) : RespondsLegally (exec i s) := by
  cases i with
  | idle => exact respondsLegally_respond s 0
  | push b =>
    obtain ⟨t, n, -, -, hpush⟩ := pushByte_cases s b
    rw [exec, execPush, hpush]
    exact respondsLegally_guarded (port_eq_c_of_right rfl hright) t _
  | flush => exact respondsLegally_guarded (port_eq_c_of_right rfl hright) _ 0
  | rrst => exact respondsLegally_guarded (port_eq_c_of_right rfl hright) _ 0
  | wr a v =>
    rw [wf_wr_eq_atAddr_isSome] at hwf
    obtain ⟨r, hr⟩ := Option.isSome_iff_exists.1 hwf
    rw [exec_wr_of_writable hr]
    exact respondsLegally_guarded (port_eq_c_of_right rfl hright) _ 0
  | rd a =>
    obtain ⟨r, -, hexec⟩ := exec_rd_of_legal s a (of_decide_eq_true hwf)
    rw [hexec]
    exact respondsLegally_respond s _
  | snap => exact ⟨_, _, rfl, rfl, nofun⟩
  | reset =>
    rw [exec, execReset, requireCPort_c s _ (port_eq_c_of_right rfl hright)]
    exact respondsLegally_respond _ 0

section
variable {w : Word}

theorem illegalWord_of_decode_error {e : DecodeError} (h : decode w = .error e) (p : Port) : IllegalWord p w := by
  simp only [IllegalWord, h]

theorem illegalWord_iff_of_decode_ok {i : Instr} (h : decode w = .ok i) (p : Port) :
    IllegalWord p w ↔ i.wf = false ∨ (p = .o ∧ i.allowedOnO = false) := by
  simp only [IllegalWord, h]

theorem issue_of_decode_ok {i : Instr} (h : decode w = .ok i) (s : State) : issue w s = exec i s := by
  rw [issue, h]

end

/-! ### LengthFault (R192) -/

/-- A `BUF` shorter than a frame is its own window. -/
theorem window_of_short {s : State} (h : s.buf.length < frameBytes) : s.window = s.buf :=
  List.take_of_length_le h.le

/-- Removing a window that is the whole `BUF` empties it. -/
theorem lockOnFrame_of_short {s : State} (h : s.buf.length < frameBytes) :
    s.lockOnFrame = { s with buf := [], pos := s.pos + frameBytes, sync := .locked } := by
  rw [State.lockOnFrame, State.dropFrame, List.drop_of_length_le h.le]

/-- On a valid window that is too short the pass removes it, locks, and raises in PUBLISH. -/
theorem loopBody_of_short {s : State} (h : s.buf.length < frameBytes) (hv : valid s.cfg s.buf = true) :
    s.loopBody = .raised s.lockOnFrame (.lengthFault s.buf.length) := by
  rw [State.loopBody, window_of_short h, if_pos hv, publish_error _ _ h.ne]

/-- The entry of LengthFault halts the block. -/
theorem raise_lengthFault_halted (s : State) (n : Nat) : (s.raise (.lengthFault n)).halted = true :=
  (halted_iff _).2 (show (1 : BitVec 2) ≠ 0 by decide)

/-- PUSH leaves `FAULT` as it was: of all commands only RESET does not. -/
theorem exec_push_fault {s t : State} {b : Byte} (h : exec (.push b) s = .next t) : t.fault = s.fault := by
  rcases exec_keepsSticky (.push b) s t h with hkeeps | ⟨hreset, -⟩
  · exact hkeeps.fault
  · cases hreset

/-! ### The halted condition (R193) -/

/-- On a halted block the check after the port right answers Halted, whatever the command would have done. -/
theorem guarded_halted {s : State} (hp : s.port = .c) (hf : s.fault ≠ 0) (body : Result) :
    requireCPort s (requireRunning s body) = .next (afterHalted s) := by
  rw [requireCPort_c s _ hp, requireRunning_halted s _ hf]
  rfl

/-! ### The obligations -/

/-- Settles O7: the decoder, the address check and the port right are all that raises IllegalCommand. -/
theorem illegalWordsRaiseIllegalCommandOnly : Obligations.IllegalWordsRaiseIllegalCommandOnly := by
  refine ⟨fun w s => ?_, rfl, rfl, rfl, rfl⟩
  cases hd : decode w with
  | error e =>
    have hillegal := illegalWord_of_decode_error hd s.port
    exact ⟨fun _ => issue_of_decode_error hd s, fun h => absurd hillegal h⟩
  | ok i =>
    rw [illegalWord_iff_of_decode_ok hd, issue_of_decode_ok hd]
    constructor
    · rintro (hwf | ⟨hp, hright⟩)
      · exact exec_notWf s i hwf
      · exact exec_notAllowedOnO hp i hright
    · intro h
      obtain ⟨hwf, hright⟩ := not_or.1 h
      exact exec_respondsLegally s i (Bool.eq_true_of_not_eq_false hwf)
        fun hp => Bool.eq_true_of_not_eq_false fun hno => hright ⟨hp, hno⟩

/-- Settles O11: PUBLISH decodes before it writes, so at the raise only the removal and the lock have happened. -/
theorem lengthFaultKeepsWhatCameBefore : Obligations.LengthFaultKeepsWhatCameBefore := by
  refine ⟨publish_error, fun s hlen hv => ?_, fun s n => ⟨rfl, raise_lengthFault_halted s n⟩,
    fun s t b => exec_push_fault⟩
  rw [loopBody_of_short hlen hv, lockOnFrame_of_short hlen]

/-- Settles O9: all four commands pass the checks before the halted condition. -/
theorem haltedCommandsChangeNothing : Obligations.HaltedCommandsChangeNothing := by
  intro s hp hf
  refine ⟨fun b => guarded_halted hp hf _, exec_flush_halted hp hf, exec_rrst_halted hp hf, fun a v ha => ?_⟩
  have hwf : (Instr.wr a v).wf = true := by simpa [Instr.wf, or_assoc] using ha
  rw [wf_wr_eq_atAddr_isSome] at hwf
  obtain ⟨r, hr⟩ := Option.isSome_iff_exists.1 hwf
  rw [exec_wr_of_writable hr]
  exact guarded_halted hp hf _

end Sys2Proof.Exceptions
end

section
/-! Reset (70_reset_and_hazards.md): the RESET command puts every state element to its reset value (R210). -/

namespace Sys2Proof.Reset

open Sys2Proof Sys2Proof.Machine Sys2Proof.Laws Sys2Proof.CommandWord Sys2Proof.Synchronizer

/-- The port right is the one check of RESET: on the C-port it executes, halted or not (60_exceptions.md R199). -/
theorem exec_reset_onC {s : State} (hp : s.port = .c) : exec .reset s = .next (s.resetBlock.respond 0) := by
  rw [exec, execReset, requireCPort_c s _ hp]

/-- The unspecified `DISP` after a reset is a frame of 1024 pixels (10_state.md R44). -/
theorem resetBlock_disp_length (s : State) : s.resetBlock.disp.length = nSamples := by
  rw [State.resetBlock_disp, freeFrame_length]

/-- Settles O21: on the C-port RESET is `resetBlock` with its response, the O-port lacks the right, and the row of RESET
compares every bit. -/
theorem resetPutsEverythingToItsResetValue : Obligations.ResetPutsEverythingToItsResetValue := by
  refine ⟨fun s hp => ?_, fun s hp => exec_notAllowedOnO hp .reset rfl,
    decode_eq_ok_iff_of_fullMask (by decide) (by decide)⟩
  exact ⟨s.resetBlock.disp, s.resetBlock.draws, s.resetIn, s.cPort, s.oPort, resetBlock_disp_length s,
    exec_reset_onC hp⟩

end Sys2Proof.Reset
end

section
/-! The encoding (30_encoding.md): the rows of the opcode map are disjoint (R82), and decoder and encoder are each
other's inverses on the commands and the legal words (R80, R81, R92). -/

namespace Sys2Proof.Encoding

open Sys2Proof Sys2Proof.Laws Sys2Proof.Synchronizer

/-- The word of a command selects the row of its mnemonic and no other, with every operand at every value. -/
theorem encodesItsRow (i : Instr) : EncodesItsRow.Statement i := by
  cases i with
  | idle => exact EncodesItsRow.idle
  | push b => exact EncodesItsRow.push b
  | flush => exact EncodesItsRow.flush
  | rrst => exact EncodesItsRow.rrst
  | wr a v => exact EncodesItsRow.wr a v
  | rd a => exact EncodesItsRow.rd a
  | snap => exact EncodesItsRow.snap
  | reset => exact EncodesItsRow.reset

/-- The fields of a command's word are the command's operands (R81). -/
theorem instr_encode (i : Instr) : i.mnemonic.instr (encode i) = i := by
  cases i with
  | push b =>
    have hbyte : Word.byte (encode (.push b)) = b := BitVec.extractLsb'_append_eq_right
    simp only [Instr.mnemonic, Mnemonic.instr, hbyte]
  | wr a v =>
    have haddr : Word.addr (encode (.wr a v)) = a :=
      (BitVec.extractLsb'_append_eq_of_le (Nat.le_refl 16)).trans BitVec.extractLsb'_append_eq_right
    have hdata : Word.data (encode (.wr a v)) = v := BitVec.extractLsb'_append_eq_right
    simp only [Instr.mnemonic, Mnemonic.instr, haddr, hdata]
  | rd a =>
    have haddr : Word.addr (encode (.rd a)) = a :=
      (BitVec.extractLsb'_append_eq_of_le (Nat.le_refl 16)).trans BitVec.extractLsb'_append_eq_right
    simp only [Instr.mnemonic, Mnemonic.instr, haddr]
  | idle | flush | rrst | snap | reset => rfl

theorem decode_encode (i : Instr) : decode (encode i) = .ok i := by
  obtain ⟨r, hfilter, hmnemonic⟩ : ∃ r, opcodeMap.filter (fun r => r.selects (encode i)) = [r] ∧
      r.mnemonic = i.mnemonic := List.map_eq_singleton_iff.1 (encodesItsRow i)
  have hfind : opcodeMap.find? (fun r => r.selects (encode i)) = some r := by
    rw [← List.head?_filter, hfilter, List.head?_cons]
  simp only [decode, hfind, hmnemonic, instr_encode]

/-- A word has the row's pattern in every field that the row compares whole. -/
theorem field_of_selects {r : Row} {w : Word} {start len : Nat} (hsel : r.selects w = true)
    (hmask : r.mask.extractLsb' start len = BitVec.allOnes len) :
    w.extractLsb' start len = r.pattern.extractLsb' start len := by
  have hpattern : w &&& r.mask = r.pattern := by rwa [Row.selects, beq_iff_eq] at hsel
  rw [← hpattern, BitVec.extractLsb'_and, hmask, BitVec.and_allOnes]

/-- The fields `{OP, Z}`, `A` and `D` make up the word (R80). -/
theorem fields_append (w : Word) : w.extractLsb' 24 8 ++ Word.addr w ++ Word.data w = w := by
  have hupper : w.extractLsb' 24 8 ++ w.extractLsb' 16 8 = w.extractLsb' 16 16 :=
    BitVec.extractLsb'_append_extractLsb'_eq_extractLsb' rfl
  calc w.extractLsb' 24 8 ++ w.extractLsb' 16 8 ++ w.extractLsb' 0 16
      = w.extractLsb' 16 16 ++ w.extractLsb' 0 16 := by rw [hupper]
    _ = w.extractLsb' 0 32 := BitVec.extractLsb'_append_extractLsb'_eq_extractLsb' rfl
    _ = w := BitVec.extractLsb'_eq_self

/-- A word is the word of the command its row reads: the fields compared are the row's, the others are the operands. -/
theorem encode_instr_of_selects {r : Row} {w : Word} (hr : r ∈ opcodeMap) (hsel : r.selects w = true) :
    encode (r.mnemonic.instr w) = w := by
  simp only [opcodeMap, List.mem_cons, List.not_mem_nil, or_false] at hr
  obtain rfl | rfl | rfl | rfl | rfl | rfl | rfl | rfl := hr
  · exact (eq_pattern_of_selects rfl hsel).symm
  · have hhigh : w.extractLsb' 8 24 = 0x100000#24 := field_of_selects hsel (by decide)
    calc encode (.push (Word.byte w))
        = w.extractLsb' 8 24 ++ w.extractLsb' 0 8 := by rw [hhigh]; rfl
      _ = w.extractLsb' 0 32 := BitVec.extractLsb'_append_extractLsb'_eq_extractLsb' rfl
      _ = w := BitVec.extractLsb'_eq_self
  · exact (eq_pattern_of_selects rfl hsel).symm
  · exact (eq_pattern_of_selects rfl hsel).symm
  · have hhigh : w.extractLsb' 24 8 = 0x40#8 := field_of_selects hsel (by decide)
    calc encode (.wr (Word.addr w) (Word.data w))
        = w.extractLsb' 24 8 ++ Word.addr w ++ Word.data w := by rw [hhigh]; rfl
      _ = w := fields_append w
  · have hhigh : w.extractLsb' 24 8 = 0x50#8 := field_of_selects hsel (by decide)
    have hdata : Word.data w = 0x0000#16 := field_of_selects hsel (by decide)
    calc encode (.rd (Word.addr w))
        = w.extractLsb' 24 8 ++ Word.addr w ++ Word.data w := by rw [hhigh, hdata]; rfl
      _ = w := fields_append w
  · exact (eq_pattern_of_selects rfl hsel).symm
  · exact (eq_pattern_of_selects rfl hsel).symm

/-- Settles O1: the word's fields are the operands, and the row of the mnemonic reads them. -/
theorem decodeOfEncodeIsTheCommand : Obligations.DecodeOfEncodeIsTheCommand :=
  decode_encode

/-- Settles O2: the row that reads the word fixes every bit that is no operand. -/
theorem encodeOfDecodeIsTheWord : Obligations.EncodeOfDecodeIsTheWord := by
  intro w i h
  obtain ⟨r, hr, hsel, rfl⟩ := decode_ok w i h
  exact encode_instr_of_selects hr hsel

/-- Settles O3: a row selects only words of its own `OP`, and no two rows have the same. -/
theorem noWordSelectsTwoRows : Obligations.NoWordSelectsTwoRows := by
  intro w r q hr hq hselr hselq
  by_contra hne
  apply pattern_op_injective q hq r hr hne
  rw [← selects_op r w hr hselr, ← selects_op q w hq hselq]

/-- Settles O6: the eight words are the words of the eight commands. -/
theorem specWordsDecodeToTheirCommands : Obligations.SpecWordsDecodeToTheirCommands :=
  ⟨decode_encode .idle, decode_encode (.push 0xF4), decode_encode .flush, decode_encode .rrst,
    decode_encode (.wr 0x03 1023), decode_encode (.rd 0x10), decode_encode .snap, decode_encode .reset⟩

end Sys2Proof.Encoding
end

section
/-! What a command and a step can do to the part of the state that PUSH, FLUSH and RESET alone write: the synchronizer,
the counters, the latest-frame slot, the trace, `OVF`, `FAULT` and the latched configuration. -/

namespace Sys2Proof.Effects

open Sys2Proof Sys2Proof.Machine Sys2Proof.Safety Sys2Proof.Laws Sys2Proof.SampleDecoder

/-- `t` has in all that only PUSH, FLUSH and RESET write what `s` has there. -/
structure SameCore (s t : State) : Prop where
  buf : t.buf = s.buf
  sync : t.sync = s.sync
  pos : t.pos = s.pos
  frameCnt : t.frameCnt = s.frameCnt
  discardCnt : t.discardCnt = s.discardCnt
  resyncCnt : t.resyncCnt = s.resyncCnt
  dispValid : t.dispValid = s.dispValid
  ovf : t.ovf = s.ovf
  disp : t.disp = s.disp
  out : t.out = s.out
  fault : t.fault = s.fault
  cfg : t.cfg = s.cfg
  cap : t.cap = s.cap
  newConfig : t.newConfig = s.newConfig

theorem SameCore.refl (s : State) : SameCore s s := by constructor <;> rfl

theorem SameCore.trans {s t u : State} (hst : SameCore s t) (htu : SameCore t u) : SameCore s u where
  buf := htu.buf.trans hst.buf
  sync := htu.sync.trans hst.sync
  pos := htu.pos.trans hst.pos
  frameCnt := htu.frameCnt.trans hst.frameCnt
  discardCnt := htu.discardCnt.trans hst.discardCnt
  resyncCnt := htu.resyncCnt.trans hst.resyncCnt
  dispValid := htu.dispValid.trans hst.dispValid
  ovf := htu.ovf.trans hst.ovf
  disp := htu.disp.trans hst.disp
  out := htu.out.trans hst.out
  fault := htu.fault.trans hst.fault
  cfg := htu.cfg.trans hst.cfg
  cap := htu.cap.trans hst.cap
  newConfig := htu.newConfig.trans hst.newConfig

section
variable (s : State)

theorem sameCore_raise_illegalCommand : SameCore s (s.raise .illegalCommand) := by constructor <;> rfl

theorem sameCore_raise_halted : SameCore s (s.raise .halted) := by constructor <;> rfl

theorem sameCore_respond (d : Word) : SameCore s (s.respond d) := by constructor <;> rfl

theorem sameCore_resetRange : SameCore s s.resetRange := by constructor <;> rfl

theorem sameCore_writeReg (r : WritableReg) (v : Sample) : SameCore s (s.writeReg r v) := by constructor <;> simp

theorem sameCore_snap (d : Word) (p : Option (List Pixel)) :
    SameCore s ({ s with new := false }.respondWith .ok d p) := by constructor <;> rfl

theorem sameCore_takeC (n : Nat) (ws : List Word) : SameCore s ((s.setDraws n).takeC ws) := by constructor <;> rfl

theorem sameCore_takeO (n : Nat) (ws : List Word) : SameCore s ((s.setDraws n).takeO ws) := by constructor <;> rfl

theorem sameCore_resetByInput : SameCore s.resetBlock s.resetByInput := by
  constructor <;> simp only [State.resetByInput]

end

section
variable {i : Instr} {s t : State}

/-- A command leaves that part alone, or is one of the three that write it. -/
theorem exec_effect (h : exec i s = .next t) :
    SameCore s t ∨ (s.fault = 0 ∧ s.port = .c ∧ ∃ b, i = .push b ∧ t = s.pushByte b) ∨
      (i = .flush ∧ t = s.flush) ∨ (i = .reset ∧ s.port = .c ∧ t = s.resetBlock.respond 0) := by
  rcases exec_cases i s t h with
    rfl | rfl | ⟨hf, hp, hown⟩ | ⟨-, rfl⟩ | ⟨a, r, -, -, rfl⟩ | ⟨-, rfl⟩ | ⟨hi, hp, ht⟩
  · exact .inl (sameCore_raise_illegalCommand s)
  · exact .inl (sameCore_raise_halted s)
  · rcases hown with ⟨b, hi, ht⟩ | ⟨hi, ht⟩ | ⟨-, rfl⟩ | ⟨a, v, r, -, -, rfl⟩
    · exact .inr (.inl ⟨hf, hp, b, hi, ht⟩)
    · exact .inr (.inr (.inl ⟨hi, ht⟩))
    · exact .inl (sameCore_resetRange s)
    · exact .inl ((sameCore_writeReg s r v).trans (sameCore_respond _ 0))
  · exact .inl (sameCore_respond s 0)
  · exact .inl (sameCore_respond s _)
  · exact .inl (sameCore_snap s _ _)
  · exact .inr (.inr (.inr ⟨hi, hp, ht⟩))

end

/-- The induction over the kinds of step: what reads only that part, and is kept by PUSH under a legal `Cfg` and `CAP`,
by FLUSH and by the reset, is kept by every step. -/
theorem step_keeps {P : State → Prop} (hcore : ∀ s t, SameCore s t → P s → P t)
    (hpush : ∀ s b, configOk s.cfg s.cap = true → P s → P (s.pushByte b)) (hflush : ∀ s, P s → P s.flush)
    (hreset : ∀ s : State, P s.resetBlock) {s t : State} (hs : P s) (h : step s = .next t) : P t := by
  have hissue : ∀ w u, SameCore s u → configOk s.cfg s.cap = true → issue w u = .next t → P t := by
    intro w u hsu hcfg hi
    have hu : P u := hcore s u hsu hs
    rcases issue_cases w u t hi with rfl | ⟨i, -, he⟩
    · exact hcore u _ (sameCore_raise_illegalCommand u) hu
    · rcases exec_effect he with hut | ⟨-, -, b, -, rfl⟩ | ⟨-, rfl⟩ | ⟨-, -, rfl⟩
      · exact hcore u t hut hu
      · exact hpush u b (by rw [hsu.cfg, hsu.cap]; exact hcfg) hu
      · exact hflush u hu
      · exact hcore _ _ (sameCore_respond _ 0) (hreset u)
  rcases step_cases s t h with ⟨-, rfl⟩ | ⟨-, -, -, rfl⟩ | ⟨-, hcfg, w, u, hnext, -, hi⟩
  · exact hcore _ _ (sameCore_resetByInput s) (hreset s)
  · exact hs
  · rcases nextCommand_cases s with ⟨-, -, hn⟩ | ⟨v, ws, n, -, hn⟩ | ⟨v, ws, n, -, hn⟩ <;> rw [hn] at hnext <;>
      cases hnext
    · exact hissue w _ (sameCore_takeC s n ws) hcfg hi
    · exact hissue w _ (sameCore_takeO s n ws) hcfg hi

/-- On an empty `BUF` there is no oldest byte, and nothing changes. -/
theorem discardOldest_nil {s : State} (h : s.buf = []) : s.discardOldest = s := by
  simp only [State.discardOldest, h]

/-! ### The fields after a publish -/

section
variable (s : State)

@[simp] theorem published_sync : (published s).sync = .locked := by simp [published, State.lockOnFrame]
@[simp] theorem published_pin : (published s).pin = s.pin := by simp [published]
@[simp] theorem published_ie : (published s).ie = s.ie := by simp [published]
@[simp] theorem published_frameCnt : (published s).frameCnt = s.frameCnt + 1 := by simp [published]
@[simp] theorem published_discardCnt : (published s).discardCnt = s.discardCnt := by simp [published]
@[simp] theorem published_resyncCnt : (published s).resyncCnt = s.resyncCnt := by simp [published]
@[simp] theorem published_dispValid : (published s).dispValid = true := by simp [published]
@[simp] theorem published_new : (published s).new = true := by simp [published]
@[simp] theorem published_cmdErr : (published s).cmdErr = s.cmdErr := by simp [published]
@[simp] theorem published_ovf : (published s).ovf = s.ovf := by simp [published]
@[simp] theorem published_fault : (published s).fault = s.fault := by simp [published]
@[simp] theorem published_cfg : (published s).cfg = s.cfg := by simp [published]
@[simp] theorem published_cap : (published s).cap = s.cap := by simp [published]
@[simp] theorem published_newConfig : (published s).newConfig = s.newConfig := by simp [published]
@[simp] theorem published_resetIn : (published s).resetIn = s.resetIn := by simp [published]
@[simp] theorem published_cPort : (published s).cPort = s.cPort := by simp [published]
@[simp] theorem published_oPort : (published s).oPort = s.oPort := by simp [published]
@[simp] theorem published_port : (published s).port = s.port := by simp [published]
@[simp] theorem published_draws : (published s).draws = s.draws := by simp [published]

theorem published_disp_length (h : frameBytes ≤ s.buf.length) : (published s).disp.length = nSamples := by
  rw [published_disp, mapFrame_length, samples_length_of_window _ (window_length s h)]

/-- R141: in PINNED mode a publish leaves the range alone. -/
theorem published_range_of_pinned (h : s.pin = true) :
    (published s).prMin = s.prMin ∧ (published s).prMax = s.prMax := by
  simp [published, State.updateRange, h]

end

/-! ### The extraction loop, with the verdict of each pass and the count of frames -/

/-- The induction of the extraction loop over a property of the state and of the number of frames published so far. -/
theorem drain_keeps_counted {P : State → Nat → Prop}
    (hpub : ∀ x k, P x k → frameBytes ≤ x.buf.length → valid x.cfg x.window = true → P (published x) (k + 1))
    (hres : ∀ x k, P x k → frameBytes ≤ x.buf.length → valid x.cfg x.window = false → P x.resync k)
    (fuel : Nat) (s t : State) (n m : Nat) (hs : P s n) (h : State.drain fuel s n = .done t m) : P t m := by
  induction fuel generalizing s n with
  | zero => cases h; exact hs
  | succ f ih =>
    by_cases hl : frameBytes ≤ s.buf.length
    · rcases loopBody_cases s hl with ⟨hv, hb⟩ | ⟨hv, hb⟩
      · rw [drain_pass f s _ n 1 hl hb] at h
        exact ih _ _ (hpub s n hs hl hv) h
      · rw [drain_pass f s _ n 0 hl hb] at h
        exact ih _ _ (hres s n hs hl hv) h
    · rw [drain_stop _ s n (Nat.not_le.1 hl)] at h
      cases h
      exact hs

/-- PUSH ends in a state and with a count that have what the append has with 0 frames and every pass keeps. -/
theorem pushByte_keeps_counted {P : State → Nat → Prop} (s : State) (b : Byte) (ha : P (s.acceptByte b) 0)
    (hpub : ∀ x k, P x k → frameBytes ≤ x.buf.length → valid x.cfg x.window = true → P (published x) (k + 1))
    (hres : ∀ x k, P x k → frameBytes ≤ x.buf.length → valid x.cfg x.window = false → P x.resync k) :
    ∃ t n, P t n ∧ t.buf.length < frameBytes ∧ s.pushByte b = t.respond (BitVec.ofNat 32 n) := by
  obtain ⟨t, n, hd, hl, he⟩ := pushByte_cases s b
  exact ⟨t, n, drain_keeps_counted hpub hres _ _ _ _ _ ha hd, hl, he⟩

end Sys2Proof.Effects
end

section
/-! The invariants (10_state.md section 9): the reset state meets them and every step keeps them. -/

namespace Sys2Proof.Invariants

open Sys2Proof Sys2Proof.Machine Sys2Proof.Safety Sys2Proof.Laws Sys2Proof.Effects Sys2Proof.Synchronizer

/-- Under a configuration of this hardware a frame fits into `BUF` (R7). -/
theorem frameBytes_le_of_configOk {c : Cfg} {cap : BitVec 16} (h : configOk c cap = true) :
    frameBytes ≤ cap.toNat := by
  rw [configOk, Bool.and_eq_true] at h
  exact frameBytes_le_of_capOk cap h.2

/-! ### Items 1 to 4 -/

/-- Items 2 to 4 of the invariant: no overflow, no fault, `STATE` is 0 or 1. -/
def Settled (s : State) : Prop :=
  s.ovf = false ∧ s.fault = 0 ∧ (s.sync = .seeking ∨ s.sync = .locked)

/-- Every pass of the loop ends in LOCKED or in SEEKING and touches neither `OVF` nor `FAULT`. -/
theorem settled_pass (s : State) (h : Settled s) : Settled (published s) ∧ Settled s.resync := by
  obtain ⟨hovf, hfault, -⟩ := h
  exact ⟨⟨by simp [hovf], by simp [hfault], .inr (published_sync s)⟩,
    ⟨by simp [hovf], by simp [hfault], .inl s.resync_sync⟩⟩

/-- With less than a frame in `BUF` the append drops nothing, so PUSH raises no overflow, and it leaves less than a
frame. -/
theorem pushByte_syncInv (s : State) (b : Byte) (hcap : frameBytes ≤ s.cap.toNat) (h : SyncInv s) :
    SyncInv (s.pushByte b) := by
  obtain ⟨hlen, hovf, hfault, hsync⟩ := h
  have hroom : s.buf.length ≠ s.cap.toNat := by
    rw [frameBytes_eq] at hlen hcap
    omega
  have happend : Settled (s.acceptByte b) := by
    rw [acceptByte_below s b hroom]
    exact ⟨hovf, hfault, hsync⟩
  have hsettled : Settled (s.pushByte b) :=
    pushByte_keeps Settled s b happend (fun x hx _ => settled_pass x hx) fun _ _ hx => hx
  exact ⟨Nat.le_pred_of_lt (pushByte_buf_length s b), hsettled⟩

theorem syncInv_of_sameCore {s t : State} (hst : SameCore s t) (h : SyncInv s) : SyncInv t := by
  simpa only [SyncInv, hst.buf, hst.ovf, hst.fault, hst.sync] using h

/-! ### Item 5 -/

theorem slotInv_of_eq {s t : State} (hvalid : t.dispValid = s.dispValid) (hdisp : t.disp = s.disp)
    (hlast : lastFrame t.out = lastFrame s.out) (h : SlotInv s) : SlotInv t := by
  simpa only [SlotInv, hvalid, hdisp, hlast] using h

/-- A publish sets `DISP_VALID` and makes the pixels in `DISP` those of the last `Frame` event. -/
theorem published_slotInv (s : State) : SlotInv (published s) := by
  rw [SlotInv, published_out, lastFrame_frame, published_dispValid]
  exact ⟨rfl, fun p hp => Option.some.inj hp⟩

theorem resync_slotInv (s : State) (h : SlotInv s) : SlotInv s.resync :=
  slotInv_of_eq s.resync_dispValid s.resync_disp (by rw [resync_out, discardOldest_lastFrame]) h

theorem acceptByte_slotInv (s : State) (b : Byte) (h : SlotInv s) : SlotInv (s.acceptByte b) := by
  refine slotInv_of_eq (s.acceptByte_dispValid b) (s.acceptByte_disp b) ?_ h
  by_cases hcap : s.buf.length = s.cap.toNat
  · rw [acceptByte_atCap s b hcap]
    exact discardOldest_lastFrame s
  · rw [acceptByte_below s b hcap, State.appendByte_out]

theorem pushByte_slotInv (s : State) (b : Byte) (h : SlotInv s) : SlotInv (s.pushByte b) :=
  pushByte_keeps SlotInv s b (acceptByte_slotInv s b h)
    (fun x hx _ => ⟨published_slotInv x, resync_slotInv x hx⟩) fun _ _ hx => hx

/-! ### The counters and `POS` -/

theorem traceInv_of_eq {s t : State} (hframes : t.frameCnt = s.frameCnt) (hdiscards : t.discardCnt = s.discardCnt)
    (hpos : t.pos = s.pos) (hout : t.out = s.out) (h : TraceInv s) : TraceInv t := by
  simpa only [TraceInv, hframes, hdiscards, hpos, hout] using h

/-- A discard is one more in `DISCARD_CNT`, one more `Discard` event and one byte more before `POS`. -/
theorem discardOldest_traceInv (s : State) (h : TraceInv s) : TraceInv s.discardOldest := by
  obtain ⟨hframes, hdiscards, hpos⟩ := h
  cases hbuf : s.buf with
  | nil =>
    rw [discardOldest_nil hbuf]
    exact ⟨hframes, hdiscards, hpos⟩
  | cons b rest =>
    rw [State.discardOldest_cons s b rest hbuf]
    refine ⟨?_, ?_, ?_⟩
    · rw [frameCount_discard]; exact hframes
    · rw [discardCount_discard, BitVec.ofNat_add, ← hdiscards]; rfl
    · simp [hpos]

theorem resync_traceInv (s : State) (h : TraceInv s) : TraceInv s.resync :=
  traceInv_of_eq (by simp) (resync_discardCnt s) (resync_pos s) (resync_out s) (discardOldest_traceInv s h)

/-- A publish is one more in `FRAME_CNT`, one more `Frame` event and one window more before `POS`. -/
theorem published_traceInv (s : State) (hl : frameBytes ≤ s.buf.length) (h : TraceInv s) :
    TraceInv (published s) := by
  obtain ⟨hframes, hdiscards, hpos⟩ := h
  rw [TraceInv, published_out]
  refine ⟨?_, ?_, ?_⟩
  · rw [published_frameCnt, frameCount_frame, BitVec.ofNat_add, ← hframes]; rfl
  · rw [published_discardCnt, discardCount_frame, hdiscards]
  · rw [published_pos, spanBytes_frame, List.length_append, window_length s hl, hpos]

theorem acceptByte_traceInv (s : State) (b : Byte) (h : TraceInv s) : TraceInv (s.acceptByte b) := by
  by_cases hcap : s.buf.length = s.cap.toNat
  · rw [acceptByte_atCap s b hcap]
    exact discardOldest_traceInv s h
  · rw [acceptByte_below s b hcap]
    exact h

theorem pushByte_traceInv (s : State) (b : Byte) (h : TraceInv s) : TraceInv (s.pushByte b) :=
  pushByte_keeps TraceInv s b (acceptByte_traceInv s b h)
    (fun x hx hl => ⟨published_traceInv x hl hx, resync_traceInv x hx⟩) fun _ _ hx => hx

/-- FLUSH starts a new span of the stream and counts nothing. -/
theorem flush_traceInv (s : State) (h : TraceInv s) : TraceInv s.flush := by
  obtain ⟨hframes, hdiscards, -⟩ := h
  refine ⟨?_, ?_, ?_⟩
  · rw [State.flush_frameCnt, State.flush_out, frameCount_flushed, hframes]
  · rw [State.flush_discardCnt, State.flush_out, discardCount_flushed, hdiscards]
  · rw [State.flush_pos, State.flush_out, spanBytes_flushed, List.length_nil]

/-! ### The form of the memories -/

theorem memoryWf_iff (s : State) :
    Memory.wf s = true ↔ s.disp.length = nSamples ∧ s.buf.length ≤ s.cap.toNat := by
  simp only [Memory.wf, Bool.and_eq_true, decide_eq_true_eq]

/-- PUSH leaves `DISP` as it was or writes a whole frame, and leaves less than a frame in `BUF`. -/
theorem pushByte_memoryWf (s : State) (b : Byte) (hcap : frameBytes ≤ s.cap.toNat) (h : Memory.wf s = true) :
    Memory.wf (s.pushByte b) = true := by
  rw [memoryWf_iff] at h ⊢
  obtain ⟨hdisp, -⟩ := h
  obtain ⟨hdisp', hcap'⟩ : (s.pushByte b).disp.length = nSamples ∧ (s.pushByte b).cap = s.cap :=
    pushByte_keeps (fun x => x.disp.length = nSamples ∧ x.cap = s.cap) s b (by simp [hdisp])
      (fun x hx hl => ⟨⟨published_disp_length x hl, by simp [hx.2]⟩, by simpa using hx⟩) fun _ _ hx => hx
  exact ⟨hdisp', by rw [hcap']; exact (pushByte_buf_length s b).le.trans hcap⟩

/-! ### The obligations -/

/-- Settles O47: a step under a legal `CAP` never meets the cap, and no command of a running block raises a fault. -/
theorem stepKeepsTheSynchronizerInvariant : Obligations.StepKeepsTheSynchronizerInvariant := by
  intro s t hs h
  refine step_keeps (fun _ _ => syncInv_of_sameCore)
    (fun x b hcfg => pushByte_syncInv x b (frameBytes_le_of_configOk hcfg)) (fun x hx => ?_) (fun x => ?_) hs h
  · obtain ⟨-, hovf, hfault, -⟩ := hx
    exact ⟨Nat.zero_le _, hovf, hfault, .inl rfl⟩
  · exact ⟨Nat.zero_le _, rfl, rfl, .inl rfl⟩

/-- Settles O48: the slot and the trace are written together by a publish, and cleared together by the reset. -/
theorem stepKeepsTheSlotInvariant : Obligations.StepKeepsTheSlotInvariant := by
  intro s t hs h
  refine step_keeps (fun x y hxy => slotInv_of_eq hxy.dispValid hxy.disp (by rw [hxy.out]))
    (fun x b _ => pushByte_slotInv x b) (fun x => slotInv_of_eq rfl rfl ?_) (fun x => ⟨rfl, nofun⟩) hs h
  rw [State.flush_out, lastFrame_flushed]

/-- Settles O49: every event is counted where it is emitted, and `POS` moves with the bytes it removes. -/
theorem stepKeepsTheTraceAccounting : Obligations.StepKeepsTheTraceAccounting := by
  intro s t hs h
  exact step_keeps (fun x y hxy => traceInv_of_eq hxy.frameCnt hxy.discardCnt hxy.pos hxy.out)
    (fun x b _ => pushByte_traceInv x b) flush_traceInv (fun x => ⟨rfl, rfl, rfl⟩) hs h

/-- Settles O50: `DISP` is written whole, and every command that writes `BUF` leaves at most `CAP` bytes. -/
theorem stepKeepsTheMemoryForm : Obligations.StepKeepsTheMemoryForm := by
  intro s t hs h
  refine step_keeps (P := fun x => Memory.wf x = true) (fun x y hxy hx => ?_)
    (fun x b hcfg => pushByte_memoryWf x b (frameBytes_le_of_configOk hcfg)) (fun x hx => ?_) (fun x => ?_) hs h
  · rw [memoryWf_iff] at hx ⊢
    rwa [hxy.disp, hxy.buf, hxy.cap]
  · rw [memoryWf_iff] at hx ⊢
    exact ⟨hx.1, Nat.zero_le _⟩
  · rw [memoryWf_iff]
    exact ⟨Reset.resetBlock_disp_length x, Nat.zero_le _⟩

/-- Settles O51: the reset state has nothing in `BUF` and `OUT`, and the free pixels of `DISP` are a whole frame. -/
theorem resetMeetsTheInvariants : Obligations.ResetMeetsTheInvariants := by
  have hmemory : Memory.wf State.reset = true := by
    rw [memoryWf_iff, State.reset, freeFrame_length]
    exact ⟨rfl, Nat.zero_le _⟩
  exact ⟨⟨rfl, rfl, rfl, rfl, rfl, rfl, rfl, rfl, rfl, rfl, rfl, rfl, rfl, rfl, rfl, rfl, rfl⟩,
    ⟨Nat.zero_le _, rfl, rfl, .inl rfl⟩, ⟨rfl, nofun⟩, ⟨rfl, rfl, rfl⟩, hmemory, by decide⟩

/-- Settles O52: SNAP reads `DISP`, which item 5 ties to the last `Frame` event. -/
theorem snapReturnsTheLastPublishedFrame : Obligations.SnapReturnsTheLastPublishedFrame := by
  intro s p hslot hlast
  obtain ⟨-, hdisp⟩ := hslot
  exact ⟨_, _, rfl, rfl, congrArg some (hdisp p hlast), hdisp p hlast⟩

end Sys2Proof.Invariants
end

section
/-! Who writes what: `STATE` (10_state.md R22), the PaletteRange (R27), `DISP` (R36), the latched configuration
(00_scope.md R8), and what the O-port can change (60_exceptions.md section 6). -/

namespace Sys2Proof.Writers

open Sys2Proof Sys2Proof.Machine Sys2Proof.Safety Sys2Proof.Laws Sys2Proof.Effects Sys2Proof.CommandWord

/-! ### STATE -/

/-- A PUSH that finds no `RESYNCING` leaves none: every pass ends in LOCKED or in SEEKING (R109). -/
theorem pushByte_not_resyncing (s : State) (b : Byte) (h : s.sync ≠ .resyncing) :
    (s.pushByte b).sync ≠ .resyncing :=
  pushByte_keeps (fun x => x.sync ≠ .resyncing) s b (by rwa [State.acceptByte_sync])
    (fun x _ _ => ⟨by rw [published_sync]; decide, by rw [State.resync_sync]; decide⟩) fun _ _ hx => hx

/-- With the range check on and `SANE_MIN > SANE_MAX` no sample passes, and a window has samples (R9, R102). -/
theorem valid_eq_false_of_emptyRange {c : Cfg} (hen : c.rangeEn = true) (hempty : c.saneMax < c.saneMin)
    {w : List Byte} (hw : w.length = frameBytes) : valid c w = false := by
  have hrange : rangeOk c w = false := by
    cases hsamples : samples c.byteOrder w with
    | nil =>
      have hlen := SampleDecoder.samples_length_of_window c.byteOrder hw
      rw [hsamples] at hlen
      cases hlen
    | cons x rest =>
      have hx : (decide (c.saneMin ≤ x) && decide (x ≤ c.saneMax)) = false := by
        rw [Bool.and_eq_false_iff, decide_eq_false_iff_not, decide_eq_false_iff_not]
        bv_omega
      rw [rangeOk, hsamples, List.all_cons, hx, Bool.false_and]
  rw [valid, hen, hrange]
  rfl

/-- A PUSH locks only on a valid window. -/
theorem pushByte_not_locked (s : State) (b : Byte) (hen : s.cfg.rangeEn = true)
    (hempty : s.cfg.saneMax < s.cfg.saneMin) (h : s.sync ≠ .locked) : (s.pushByte b).sync ≠ .locked := by
  obtain ⟨t, n, ⟨-, hsync⟩, -, hpush⟩ :=
    pushByte_keeps_counted (P := fun x _ => x.cfg = s.cfg ∧ x.sync ≠ .locked) s b (by simpa using h)
      (fun x _ hx hl hv => by
        obtain ⟨hcfg, -⟩ := hx
        rw [hcfg, valid_eq_false_of_emptyRange hen hempty (window_length x hl)] at hv
        cases hv)
      (fun x _ hx _ _ => ⟨by rw [State.resync_cfg, hx.1], by rw [State.resync_sync]; decide⟩)
  rwa [hpush, State.respond_sync]

/-! ### The PaletteRange -/

/-- In PINNED mode PUSH leaves the range and `CTRL.PIN` alone (R141). -/
theorem pushByte_range_of_pinned (s : State) (b : Byte) (h : s.pin = true) :
    (s.pushByte b).pin = true ∧ (s.pushByte b).prMin = s.prMin ∧ (s.pushByte b).prMax = s.prMax := by
  refine pushByte_keeps (fun x => x.pin = true ∧ x.prMin = s.prMin ∧ x.prMax = s.prMax) s b (by simp [h])
    (fun x hx _ => ⟨?_, by simpa using hx⟩) fun _ _ hx => hx
  obtain ⟨hpin, hmin, hmax⟩ := hx
  obtain ⟨hmin', hmax'⟩ := published_range_of_pinned x hpin
  exact ⟨(published_pin x).trans hpin, hmin'.trans hmin, hmax'.trans hmax⟩

/-- The three addresses WR accepts, each with its register (R85). -/
theorem writableReg_atAddr_eq_some {a : RegAddr} {r : WritableReg} (h : WritableReg.atAddr a = some r) :
    (a = 0x00 ∧ r = .ctrl) ∨ (a = 0x02 ∧ r = .prMin) ∨ (a = 0x03 ∧ r = .prMax) := by
  unfold WritableReg.atAddr at h
  split_ifs at h with h0 h2 h3 <;> cases h
  · exact .inl ⟨h0, rfl⟩
  · exact .inr (.inl ⟨h2, rfl⟩)
  · exact .inr (.inr ⟨h3, rfl⟩)

/-! ### DISP -/

/-- `DISP` is still that of `s`, or shows the pixels of a `Frame` event, with its two flags set. -/
def ShowsOldOrPublished (s t : State) : Prop :=
  t.disp = s.disp ∨ (t.dispValid = true ∧ t.new = true ∧ ∃ w f lo hi, .frame w f lo hi t.disp ∈ t.out)

theorem published_showsPublished (s x : State) : ShowsOldOrPublished s (published x) := by
  have hmem : Event.frame x.window (samples x.cfg.byteOrder x.window) (published x).prMin (published x).prMax
      (published x).disp ∈ (published x).out := by
    rw [published_out x]
    exact List.mem_append_right _ (List.mem_singleton_self _)
  exact .inr ⟨published_dispValid x, published_new x, _, _, _, _, hmem⟩

theorem mem_resync_out {e : Event} {s : State} (h : e ∈ s.out) : e ∈ s.resync.out := by
  rw [resync_out]
  cases hbuf : s.buf with
  | nil => rwa [discardOldest_nil hbuf]
  | cons b rest =>
    rw [State.discardOldest_cons s b rest hbuf]
    exact List.mem_append_left _ h

theorem resync_showsOldOrPublished {s x : State} (h : ShowsOldOrPublished s x) : ShowsOldOrPublished s x.resync := by
  rw [ShowsOldOrPublished, State.resync_disp, State.resync_dispValid, State.resync_new]
  exact h.imp_right fun ⟨hvalid, hnew, w, f, lo, hi, hmem⟩ => ⟨hvalid, hnew, w, f, lo, hi, mem_resync_out hmem⟩

theorem pushByte_showsOldOrPublished (s : State) (b : Byte) : ShowsOldOrPublished s (s.pushByte b) :=
  pushByte_keeps (ShowsOldOrPublished s) s b (.inl (s.acceptByte_disp b))
    (fun x hx _ => ⟨published_showsPublished s x, resync_showsOldOrPublished hx⟩) fun _ _ hx => hx

/-! ### The configuration -/

/-- PUSH leaves the latched configuration and the configuration inputs alone. -/
theorem pushByte_config (s : State) (b : Byte) :
    (s.pushByte b).cfg = s.cfg ∧ (s.pushByte b).cap = s.cap ∧ (s.pushByte b).newConfig = s.newConfig :=
  pushByte_keeps (fun x => x.cfg = s.cfg ∧ x.cap = s.cap ∧ x.newConfig = s.newConfig) s b (by simp)
    (fun x hx _ => ⟨by simpa using hx, by simpa using hx⟩) fun _ _ hx => hx

/-! ### The obligations -/

/-- Settles O24: only PUSH, FLUSH and RESET reach `STATE`, and the last two put it to SEEKING. -/
theorem stateIsWrittenByPushFlushAndResetOnly : Obligations.StateIsWrittenByPushFlushAndResetOnly := by
  intro i s t h
  rcases exec_effect h with hst | ⟨-, -, b, rfl, rfl⟩ | ⟨rfl, rfl⟩ | ⟨rfl, -, rfl⟩
  · rw [hst.sync]
    exact ⟨fun hne => absurd rfl hne, id⟩
  · exact ⟨fun _ => .inl ⟨b, rfl⟩, pushByte_not_resyncing s b⟩
  · exact ⟨fun _ => .inr (.inl rfl), fun _ => by rw [State.flush_sync]; decide⟩
  · exact ⟨fun _ => .inr (.inr rfl), fun _ => by rw [State.respond_sync, State.resetBlock_sync]; decide⟩

/-- Settles O25: WR of `CTRL` and a pinned PUSH leave the range alone, and so does every command not named. -/
theorem paletteRangeWriters : Obligations.PaletteRangeWriters := by
  intro i s t h hne
  have hchanged : ¬ (t.prMin = s.prMin ∧ t.prMax = s.prMax) := not_and_or.2 hne
  rcases exec_cases i s t h with
    rfl | rfl | ⟨-, -, hown⟩ | ⟨-, rfl⟩ | ⟨a, r, -, -, rfl⟩ | ⟨-, rfl⟩ | ⟨hi, -, -⟩
  · exact absurd ⟨rfl, rfl⟩ hchanged
  · exact absurd ⟨rfl, rfl⟩ hchanged
  · rcases hown with ⟨b, hi, rfl⟩ | ⟨-, rfl⟩ | ⟨hi, -⟩ | ⟨a, v, r, rfl, hr, rfl⟩
    · cases hpin : s.pin with
      | true => exact absurd (pushByte_range_of_pinned s b hpin).2 hchanged
      | false => exact .inr (.inr (.inr ⟨rfl, b, hi⟩))
    · exact absurd ⟨rfl, rfl⟩ hchanged
    · exact .inr (.inl hi)
    · rcases writableReg_atAddr_eq_some hr with ⟨-, rfl⟩ | ⟨rfl, -⟩ | ⟨rfl, -⟩
      · exact absurd ⟨rfl, rfl⟩ hchanged
      · exact .inr (.inr (.inl ⟨v, .inl rfl⟩))
      · exact .inr (.inr (.inl ⟨v, .inr rfl⟩))
  · exact absurd ⟨rfl, rfl⟩ hchanged
  · exact absurd ⟨rfl, rfl⟩ hchanged
  · exact absurd ⟨rfl, rfl⟩ hchanged
  · exact .inl hi

/-- Settles O26: of the commands that reach `DISP`, FLUSH leaves it alone and PUSH writes it in a publish. -/
theorem dispIsWrittenByPublishAndResetOnly : Obligations.DispIsWrittenByPublishAndResetOnly := by
  intro i s t h hne
  rcases exec_effect h with hst | ⟨-, -, b, hi, rfl⟩ | ⟨-, rfl⟩ | ⟨hi, -, -⟩
  · exact absurd hst.disp hne
  · exact .inr ⟨b, hi, (pushByte_showsOldOrPublished s b).resolve_left hne⟩
  · exact absurd s.flush_disp hne
  · exact .inl hi

/-- Settles O27: RESET alone latches the configuration inputs. -/
theorem configurationIsConstantBetweenResets : Obligations.ConfigurationIsConstantBetweenResets := by
  intro w s t h
  rcases issue_cases w s t h with rfl | ⟨i, hd, he⟩
  · exact .inr ⟨rfl, rfl, rfl⟩
  · rcases exec_effect he with hst | ⟨-, -, b, -, rfl⟩ | ⟨-, rfl⟩ | ⟨rfl, hp, -⟩
    · exact .inr ⟨hst.cfg, hst.cap, hst.newConfig⟩
    · exact .inr (pushByte_config s b)
    · exact .inr ⟨rfl, rfl, rfl⟩
    · exact .inl ⟨hd, hp⟩

/-- Settles O12: on the O-port a command is refused or is IDLE, RD or SNAP, and only SNAP writes `NEW`. -/
theorem observerPortTouchesOnlyNewAndCmdErr : Obligations.ObserverPortTouchesOnlyNewAndCmdErr := by
  intro w s t hp h
  rcases issue_cases w s t h with rfl | ⟨i, hd, he⟩
  · exact ⟨rfl, .inl rfl⟩
  · rcases exec_cases i s t he with
      rfl | rfl | ⟨-, hc, -⟩ | ⟨-, rfl⟩ | ⟨a, r, -, -, rfl⟩ | ⟨rfl, rfl⟩ | ⟨-, hc, -⟩
    · exact ⟨rfl, .inl rfl⟩
    · exact ⟨rfl, .inl rfl⟩
    · rw [hp] at hc; cases hc
    · exact ⟨rfl, .inl rfl⟩
    · exact ⟨rfl, .inl rfl⟩
    · exact ⟨rfl, .inr ⟨hd, rfl⟩⟩
    · rw [hp] at hc; cases hc

/-- Settles O32: no window passes the range check, so no pass of PUSH locks. -/
theorem emptySaneRangeNeverLocks : Obligations.EmptySaneRangeNeverLocks := by
  intro i s t hen hempty hsync h
  refine ⟨?_, fun w => valid_eq_false_of_emptyRange hen hempty⟩
  rcases exec_effect h with hst | ⟨-, -, b, -, rfl⟩ | ⟨-, rfl⟩ | ⟨-, -, rfl⟩
  · rwa [hst.sync]
  · exact pushByte_not_locked s b hen hempty hsync
  · rw [State.flush_sync]; decide
  · rw [State.respond_sync, State.resetBlock_sync]; decide

end Sys2Proof.Writers
end

section
/-! The plain registers (10_state.md R24 to R35): what WR writes and what RD returns (43_control.md R172, R174), and what
the RESET command leaves at the ports. -/

namespace Sys2Proof.PlainRegisters

open Sys2Proof Sys2Proof.Machine Sys2Proof.Safety Sys2Proof.Laws Sys2Proof.CommandWord Sys2Proof.Synchronizer
open Sys2Proof.Exceptions

/-- On a running block WR of a writable register passes every check of the dispatch. -/
theorem exec_wr_running {s : State} (hp : s.port = .c) (hf : s.fault = 0) {a : RegAddr} {r : WritableReg}
    (ha : WritableReg.atAddr a = some r) (v : Sample) : exec (.wr a v) s = .next ((s.writeReg r v).respond 0) := by
  rw [exec_wr_of_writable ha, requireCPort_c s _ hp, requireRunning_running s _ hf]

/-- Every register is the one RD finds at its address. -/
theorem atAddr_addr (r : Reg) : Reg.atAddr r.addr = some r := by
  cases r <;> rfl

theorem exec_rd_addr (s : State) (r : Reg) : exec (.rd r.addr) s = .next (s.respond (s.readReg r)) := by
  simp only [exec, execRd, atAddr_addr]

/-- What RD finds at an address stands there. -/
theorem addr_of_atAddr {a : RegAddr} {r : Reg} (h : Reg.atAddr a = some r) : r.addr = a := by
  simpa only [beq_iff_eq] using List.find?_some h

/-- Two bytes of the marker in one register, the first in the low half (R34). -/
theorem markBytes_toNat (c : Cfg) {j k : Nat} (hj : j < 4) (hk : k < 4) :
    ((c.markByte k ++ c.markByte j : BitVec 16).setWidth 32).toNat = (c.mark[j]).toNat + 256 * (c.mark[k]).toNat := by
  rw [BitVec.toNat_setWidth_of_le (by decide), SampleDecoder.byte_append_toNat, markByte_eq_getElem c hj,
    markByte_eq_getElem c hk, Nat.add_comm]

/-! ### The obligations -/

/-- Settles O16: the three addresses name the three registers. -/
theorem wrWritesTheOneRegisterNamed : Obligations.WrWritesTheOneRegisterNamed :=
  fun v _ hp hf => ⟨exec_wr_running hp hf (r := .ctrl) rfl v, exec_wr_running hp hf (r := .prMin) rfl v,
    exec_wr_running hp hf (r := .prMax) rfl v⟩

/-- Settles O17: the address map is inverted by RD's lookup, which succeeds at 0x00 to 0x10. -/
theorem rdReturnsTheRegisterAndChangesNothing : Obligations.RdReturnsTheRegisterAndChangesNothing := by
  refine ⟨fun r s => exec_rd_addr s r, fun a => ?_, rfl, rfl, rfl, rfl, rfl, rfl, rfl, rfl, rfl, rfl, rfl, rfl, rfl,
    rfl, rfl, rfl, rfl⟩
  rw [← atAddr_isSome_iff, Option.isSome_iff_exists]
  constructor
  · rintro ⟨r, hr⟩
    exact ⟨r, addr_of_atAddr hr⟩
  · rintro ⟨r, rfl⟩
    exact ⟨r, atAddr_addr r⟩

/-- Settles O19: extension by zeros keeps the number, and `LEN` fits 16 bits where `BUF` does. -/
theorem plainRegistersReadZeroExtended : Obligations.PlainRegistersReadZeroExtended := by
  intro s
  have hlen : s.buf.length ≤ 65535 → (s.readReg .len).toNat = s.buf.length := fun h => by
    rw [State.readReg, BitVec.toNat_setWidth_of_le (by decide), BitVec.toNat_ofNat, Nat.mod_eq_of_lt (by omega)]
  refine ⟨?_, ?_, hlen, rfl, rfl, rfl, ?_, ?_, ?_, markBytes_toNat s.cfg _ _, markBytes_toNat s.cfg _ _, ?_, ?_, ?_⟩ <;>
    exact BitVec.toNat_setWidth_of_le (by decide)

/-- Settles O22: the reset of the block writes none of its inputs. -/
theorem resetCommandLeavesTheInputs : Obligations.ResetCommandLeavesTheInputs := by
  intro s t hp h
  rw [Reset.exec_reset_onC hp] at h
  cases h
  exact ⟨rfl, rfl, rfl, by rw [State.respond_disp, State.resetBlock_disp], rfl⟩

end Sys2Proof.PlainRegisters
end

section
/-! The sample decoder as a function of the window (41_sample_decoder.md R132): it loses nothing, and the byte orders
differ by exchanging the bytes of every pair. -/

namespace Sys2Proof.SampleDecoder

open Sys2Proof Sys2Proof.Machine Sys2Proof.Safety Sys2Proof.Laws

/-- In either byte order a sample determines its two bytes. -/
theorem joinBytes_injective {o : ByteOrder} {a b a' b' : Byte} (h : joinBytes o a b = joinBytes o a' b') :
    a = a' ∧ b = b' := by
  have hvalue := congrArg BitVec.toNat h
  cases o with
  | little => rw [joinBytes_little_toNat, joinBytes_little_toNat] at hvalue; constructor <;> bv_omega
  | big => rw [joinBytes_big_toNat, joinBytes_big_toNat] at hvalue; constructor <;> bv_omega

/-- Windows of one even length that decode alike are the same window. -/
theorem samples_injective (o : ByteOrder) (v w : List Byte) (hlen : v.length = w.length) (heven : v.length % 2 = 0)
    (h : samples o v = samples o w) : v = w := by
  induction v using samples.induct generalizing w with
  | case1 a b rest ih =>
    obtain ⟨a', b', rest', rfl⟩ : ∃ a' b' rest', w = a' :: b' :: rest' := by
      match w, hlen with
      | a' :: b' :: rest', _ => exact ⟨a', b', rest', rfl⟩
    simp only [samples, List.cons.injEq] at h
    obtain ⟨rfl, rfl⟩ := joinBytes_injective h.1
    simp only [List.length_cons, Nat.add_right_cancel_iff] at hlen heven
    rw [ih rest' hlen (by omega) h.2]
  | case2 short hshort =>
    match short, hshort with
    | [], _ => exact (List.length_eq_zero_iff.1 hlen.symm).symm
    | [_], _ => cases heven
    | a :: b :: rest, hshort => exact absurd rfl (hshort a b rest)

/-- R132: big-endian samples are the little-endian samples of the window with every pair exchanged. -/
theorem samples_big_eq_samples_little_swapPairs (w : List Byte) :
    samples .big w = samples .little (swapPairs w) := by
  induction w using samples.induct with
  | case1 first second rest ih => simp only [samples, swapPairs, ih, joinBytes]
  | case2 short hshort =>
    match short, hshort with
    | [], _ => rfl
    | [_], _ => rfl
    | a :: b :: rest, hshort => exact absurd rfl (hshort a b rest)

theorem swapPairs_length (w : List Byte) : (swapPairs w).length = w.length := by
  induction w using swapPairs.induct with
  | case1 first second rest ih => simp only [swapPairs, List.length_cons, ih]
  | case2 short hshort => rw [swapPairs.eq_2 short hshort]

/-- Settles O29: both parts pair by pair, along the recursion of the decoder. -/
theorem decodeIsInjectiveAndOrdersDifferBySwapping : Obligations.DecodeIsInjectiveAndOrdersDifferBySwapping := by
  refine ⟨fun c v w hv hw h => ?_, fun c w hw => ?_⟩
  · rw [decodeFrame_ok c v hv, decodeFrame_ok c w hw] at h
    exact samples_injective c.byteOrder v w (hv.trans hw.symm) (by rw [hv, frameBytes_eq]) (Except.ok.inj h)
  · rw [decodeFrame_ok _ w hw, decodeFrame_ok _ (swapPairs w) ((swapPairs_length w).trans hw)]
    exact congrArg Except.ok (samples_big_eq_samples_little_swapPairs w)

end Sys2Proof.SampleDecoder
end

section
/-! The range policy and the whole frame (42_colour_mapper.md R141 to R145): the table index is monotone, in AUTO the
range is spanned by two samples of the frame, and such a range reaches both ends of the scale. -/

namespace Sys2Proof.ColourMapper

open Sys2Proof Sys2Proof.Machine Sys2Proof.Safety Sys2Proof.Laws

theorem clampSample_mono {x y : Sample} (h : x ≤ y) (lo hi : Sample) : clampSample x lo hi ≤ clampSample y lo hi :=
  min_le_min_right _ (max_le_max_right _ h)

/-! ### The bounds of a frame are samples of it -/

/-- A fold that keeps one of two samples at each place ends with its start or with a sample of the list. -/
theorem foldl_eq_or_mem {f : Sample → Sample → Sample} (hf : ∀ a b, f a b = a ∨ f a b = b) (a : Sample)
    (t : List Sample) : t.foldl f a = a ∨ t.foldl f a ∈ t := by
  induction t generalizing a with
  | nil => exact .inl rfl
  | cons b t ih =>
    rw [List.foldl_cons]
    rcases ih (f a b) with heq | hmem
    · rw [heq]
      rcases hf a b with hfirst | hsecond
      · exact .inl hfirst
      · rw [hsecond]
        exact .inr List.mem_cons_self
    · exact .inr (List.mem_cons_of_mem b hmem)

theorem sampleMin_eq_or (a b : Sample) : sampleMin a b = a ∨ sampleMin a b = b :=
  ite_eq_or_eq _ a b

theorem sampleMax_eq_or (a b : Sample) : sampleMax a b = a ∨ sampleMax a b = b :=
  (ite_eq_or_eq _ b a).symm

section
variable {t : List Sample} (ht : t ≠ [])
include ht

/-- The start of the fold is the largest sample there is, so it too is in the frame when it is the minimum. -/
theorem frameMin_mem : frameMin t ∈ t := by
  obtain ⟨x, hx⟩ := List.exists_mem_of_ne_nil t ht
  rcases foldl_eq_or_mem sampleMin_eq_or 0xFFFF t with heq | hmem
  · have htop : frameMin t = 0xFFFF := heq
    have hle := frameMin_le hx
    have hxtop : frameMin t = x := by bv_omega
    rwa [hxtop]
  · exact hmem

theorem frameMax_mem : frameMax t ∈ t := by
  obtain ⟨x, hx⟩ := List.exists_mem_of_ne_nil t ht
  rcases foldl_eq_or_mem sampleMax_eq_or 0 t with heq | hmem
  · have hbottom : frameMax t = 0 := heq
    have hle := le_frameMax hx
    have hxbottom : frameMax t = x := by bv_omega
    rwa [hxbottom]
  · exact hmem

end

/-- The colour of a sample of the frame is a pixel of the frame mapping. -/
theorem mapSample_mem_mapFrame (c : Cfg) {t : List Sample} {x : Sample} (hx : x ∈ t) (lo hi : Sample) :
    mapSample c x lo hi ∈ mapFrame c t lo hi :=
  List.mem_map_of_mem hx

/-! ### The obligations -/

/-- Settles O36: the clamp is monotone, and so are the subtraction, the product and the quotient. -/
theorem tableIndexIsMonotone : Obligations.TableIndexIsMonotone := by
  intro x y lo hi _ hxy
  exact Nat.div_le_div_right (Nat.mul_le_mul_right 255 (Nat.sub_le_sub_right (clampSample_mono hxy lo hi) _))

/-- Settles O37: the two branches of the policy; the bounds of a nonempty frame are samples of it. -/
theorem rangePolicyIsPinnedOrTheFramesOwn : Obligations.RangePolicyIsPinnedOrTheFramesOwn := by
  intro s t ht
  refine ⟨State.updateRange_pinned s t, fun hauto => ?_⟩
  exact ⟨frameMin t, frameMax t, State.updateRange_auto s t hauto, frameMin_mem ht, frameMax_mem ht,
    fun x hx => ⟨frameMin_le hx, le_frameMax hx⟩⟩

/-- Settles O38: the minimum and the maximum are samples of the frame; the range is degenerate exactly if they are
equal, and otherwise they take the two end colours. -/
theorem autoRangeReachesBothEnds : Obligations.AutoRangeReachesBothEnds := by
  intro c t ht
  have hmin := frameMin_mem ht
  have hmax := frameMax_mem ht
  refine ⟨fun huniform p hp => ?_, fun ⟨x, hx, y, hy, hxy⟩ => ?_⟩
  · obtain ⟨x, -, rfl⟩ := List.mem_map.1 hp
    exact mapSample_of_hi_le_lo c (BitVec.le_of_eq (huniform _ hmax _ hmin))
  · have hlt : frameMin t < frameMax t := by
      have hx₁ := frameMin_le hx
      have hx₂ := le_frameMax hx
      have hy₁ := frameMin_le hy
      have hy₂ := le_frameMax hy
      bv_omega
    refine ⟨hlt, ?_, ?_⟩
    · have hfirst := (clampedSamplesTakeTheEndColours.1 c (frameMin t) _ _ hlt).1 (BitVec.le_refl _)
      exact hfirst ▸ mapSample_mem_mapFrame c hmin _ _
    · have hlast := (clampedSamplesTakeTheEndColours.1 c (frameMax t) _ _ hlt).2 (BitVec.le_refl _)
      exact hlast ▸ mapSample_mem_mapFrame c hmax _ _

end Sys2Proof.ColourMapper
end

section
/-! PUSH on a running block (40_synchronizer.md section 3): its exact next state when the append makes less than a frame
or exactly one window, the count of frames it reports, and what it does to the stream and to the other fields. -/

namespace Sys2Proof.Push

open Sys2Proof Sys2Proof.Machine Sys2Proof.Safety Sys2Proof.Laws Sys2Proof.Effects Sys2Proof.Synchronizer

/-! ### One pass, by the verdict of VALID -/

section
variable {s : State} (h : frameBytes ≤ s.buf.length)
include h

theorem loopBody_of_valid (hv : valid s.cfg s.window = true) : s.loopBody = .ended (published s) 1 := by
  rcases loopBody_cases s h with ⟨-, hb⟩ | ⟨hv', -⟩
  · exact hb
  · rw [hv] at hv'; cases hv'

theorem loopBody_of_invalid (hv : valid s.cfg s.window = false) : s.loopBody = .ended s.resync 0 := by
  rcases loopBody_cases s h with ⟨hv', -⟩ | ⟨-, hb⟩
  · rw [hv] at hv'; cases hv'
  · exact hb

end

/-! ### The append below the cap -/

section
variable {s : State} (b : Byte)

/-- With less than a frame in `BUF` the append is below a legal cap. -/
theorem acceptByte_of_short (hcap : capOk s.cap = true) (hlen : s.buf.length < frameBytes) :
    s.acceptByte b = s.appendByte b :=
  acceptByte_below s b (hlen.trans_le (frameBytes_le_of_capOk s.cap hcap)).ne

theorem appendByte_buf_length : (s.appendByte b).buf.length = s.buf.length + 1 := by
  rw [State.appendByte_buf, List.length_append, List.length_singleton]

/-- A `BUF` that the append makes exactly a frame is the window. -/
theorem appendByte_window (hlen : s.buf.length + 1 = frameBytes) : (s.appendByte b).window = s.buf ++ [b] :=
  List.take_of_length_le (by rw [appendByte_buf_length, hlen])

/-- R141 in one equation, the policy in the two range registers. -/
theorem updateRange_eq (t : List Sample) :
    s.updateRange t =
      { s with
        prMin := if s.pin then s.prMin else frameMin t
        prMax := if s.pin then s.prMax else frameMax t } := by
  rw [State.updateRange]
  split <;> rfl

/-- Removing a window that is the whole `BUF` empties it. -/
theorem lockOnFrame_of_window (hlen : s.buf.length + 1 = frameBytes) :
    (s.appendByte b).lockOnFrame = { s with buf := [], pos := s.pos + frameBytes, sync := .locked } := by
  rw [State.lockOnFrame, State.dropFrame, List.drop_of_length_le (by rw [appendByte_buf_length, hlen])]
  rfl

/-- The resync step on a `BUF` with an oldest byte, field by field (R109). -/
theorem resync_cons {first : Byte} {rest : List Byte} (hbuf : s.buf = first :: rest) :
    s.resync =
      { s with
        buf := rest
        pos := s.pos + 1
        sync := .seeking
        resyncCnt := if s.sync = .locked then s.resyncCnt + 1 else s.resyncCnt
        discardCnt := s.discardCnt + 1
        out := s.out ++ [.discard first] } := by
  have hcounted : s.countResync =
      { s with resyncCnt := if s.sync = .locked then s.resyncCnt + 1 else s.resyncCnt } := by
    rw [State.countResync]
    split <;> rfl
  rw [State.resync, hcounted, State.discardOldest_cons _ first rest (by exact hbuf)]

/-- PUSH that makes exactly one window makes one pass over it. -/
theorem pushByte_of_window {s' : State} {k : Nat} (hcap : capOk s.cap = true) (hlen : s.buf.length + 1 = frameBytes)
    (hb : (s.appendByte b).loopBody = .ended s' k) : s.pushByte b = s'.respond (BitVec.ofNat 32 k) := by
  have hfull : frameBytes ≤ (s.appendByte b).buf.length := by rw [appendByte_buf_length, hlen]
  have haccept := acceptByte_of_short b hcap (show s.buf.length < frameBytes by omega)
  rw [← haccept] at hfull hb
  have hshorter := loopBody_shortens _ s' k hfull hb
  rw [haccept, appendByte_buf_length, hlen] at hshorter
  exact pushByte_onePass s s' b k hfull hb hshorter

end

/-! ### The stream -/

/-- A discard moves a byte from `BUF` into the trace. -/
theorem discardOldest_spanStream (s : State) : spanStream s.discardOldest = spanStream s := by
  cases hbuf : s.buf with
  | nil => rw [discardOldest_nil hbuf]
  | cons first rest =>
    rw [State.discardOldest_cons s first rest hbuf]
    simp only [spanStream, hbuf, spanBytes_discard, List.append_assoc, List.singleton_append]

theorem resync_spanStream (s : State) : spanStream s.resync = spanStream s := by
  have hbuf : s.discardOldest.buf = s.resync.buf := by
    rw [resync_buf]
    cases h : s.buf with
    | nil => rw [discardOldest_nil h, h, List.tail_nil]
    | cons first rest => rw [State.discardOldest_cons s first rest h, List.tail_cons]
  rw [← discardOldest_spanStream s, spanStream, spanStream, resync_out, hbuf]

/-- A publish moves a window from `BUF` into the trace. -/
theorem published_spanStream (s : State) : spanStream (published s) = spanStream s := by
  rw [spanStream, published_out, spanBytes_frame, published_buf, State.window, List.append_assoc,
    List.take_append_drop, spanStream]

/-- The append puts the byte at the end of the stream, whether or not it drops the oldest byte of `BUF`. -/
theorem acceptByte_spanStream (s : State) (b : Byte) : spanStream (s.acceptByte b) = spanStream s ++ [b] := by
  by_cases hcap : s.buf.length = s.cap.toNat
  · have hdrop := discardOldest_spanStream s
    rw [spanStream] at hdrop
    rw [acceptByte_atCap s b hcap, ← hdrop]
    exact (List.append_assoc _ _ _).symm
  · rw [acceptByte_below s b hcap]
    exact (List.append_assoc _ _ _).symm

theorem pushByte_spanStream (s : State) (b : Byte) : spanStream (s.pushByte b) = spanStream s ++ [b] :=
  pushByte_keeps (fun x => spanStream x = spanStream s ++ [b]) s b (acceptByte_spanStream s b)
    (fun x hx _ => ⟨(published_spanStream x).trans hx, (resync_spanStream x).trans hx⟩) fun _ _ hx => hx

/-! ### The count of frames -/

theorem acceptByte_frameCount (s : State) (b : Byte) : frameCount (s.acceptByte b).out = frameCount s.out := by
  by_cases hcap : s.buf.length = s.cap.toNat
  · rw [acceptByte_atCap s b hcap]
    exact discardOldest_frameCount s
  · rw [acceptByte_below s b hcap, State.appendByte_out]

theorem resync_frameCount (s : State) : frameCount s.resync.out = frameCount s.out := by
  rw [resync_out, discardOldest_frameCount]

theorem published_frameCount (s : State) : frameCount (published s).out = frameCount s.out + 1 := by
  rw [published_out, frameCount_frame]

/-- From `s` to `t`, on the same port, `n` frames were published. -/
structure Publishes (s t : State) (n : Nat) : Prop where
  port : t.port = s.port
  frameCount : frameCount t.out = frameCount s.out + n
  frameCnt : t.frameCnt = s.frameCnt + BitVec.ofNat 32 n

/-- Every pass of the loop counts the frame it publishes. -/
theorem pushByte_publishes (s : State) (b : Byte) :
    ∃ t n, Publishes s t n ∧ t.buf.length < frameBytes ∧ s.pushByte b = t.respond (BitVec.ofNat 32 n) := by
  refine pushByte_keeps_counted s b ⟨s.acceptByte_port b, acceptByte_frameCount s b, by simp⟩
    (fun x k hx _ _ => ⟨?_, ?_, ?_⟩) (fun x k hx _ _ => ⟨?_, ?_, ?_⟩)
  · rw [published_port, hx.port]
  · rw [published_frameCount, hx.frameCount, Nat.add_assoc]
  · rw [published_frameCnt, hx.frameCnt, BitVec.ofNat_add, BitVec.add_assoc]
    rfl
  · rw [State.resync_port, hx.port]
  · rw [resync_frameCount, hx.frameCount]
  · rw [State.resync_frameCnt, hx.frameCnt]

/-! ### What PUSH leaves alone -/

theorem pushByte_sameControl (s : State) (b : Byte) : SameControl s (s.pushByte b) :=
  pushByte_keeps (SameControl s) s b (by simp [SameControl])
    (fun x hx _ => ⟨by simpa [SameControl] using hx, by simpa [SameControl] using hx⟩) fun _ _ hx => hx

/-- From `s` to `t` no frame is uncounted, and if none was published the output is as it was. -/
def OutputKeptUnlessPublished (s t : State) : Prop :=
  frameCount s.out ≤ frameCount t.out ∧ (frameCount t.out = frameCount s.out → SameOutput s t)

theorem resync_sameOutput {s x : State} (h : SameOutput s x) : SameOutput s x.resync := by
  simpa [SameOutput] using h

/-- A pass that publishes leaves more frames in the trace than there were, one that does not leaves the output alone. -/
theorem pushByte_outputKept (s : State) (b : Byte) : OutputKeptUnlessPublished s (s.pushByte b) := by
  refine pushByte_keeps (OutputKeptUnlessPublished s) s b ⟨(acceptByte_frameCount s b).ge, fun _ => ?_⟩
    (fun x hx _ => ⟨⟨?_, fun hsame => ?_⟩, ⟨?_, fun hsame => ?_⟩⟩) fun _ _ hx => hx
  · simp [SameOutput]
  · rw [published_frameCount]
    exact hx.1.trans (Nat.le_succ _)
  · have hmore := hx.1
    rw [published_frameCount] at hsame
    omega
  · rw [resync_frameCount]
    exact hx.1
  · rw [resync_frameCount] at hsame
    exact resync_sameOutput (hx.2 hsame)

/-! ### The obligations -/

/-- Settles O39: the append is below the cap and the loop makes no pass. -/
theorem pushBelowAFrameAppends : Obligations.PushBelowAFrameAppends := by
  intro s b hp hf hcap hlen
  have haccept := acceptByte_of_short b hcap (show s.buf.length < frameBytes by omega)
  have hshort : (s.acceptByte b).buf.length < frameBytes := by rwa [haccept, appendByte_buf_length]
  rw [exec_push_running hp hf, pushByte_short s b hshort, haccept]
  rfl

/-- Settles O40: the one pass publishes, by the range policy of the mode. -/
theorem pushOfAValidWindowPublishes : Obligations.PushOfAValidWindowPublishes := by
  rintro s b t lo hi hp hf hcap hlen hvalid hdecode rfl rfl
  have hwindow := appendByte_window b hlen
  have hfull : frameBytes ≤ (s.appendByte b).buf.length := by rw [appendByte_buf_length, hlen]
  have hpass : (s.appendByte b).loopBody = .ended (published (s.appendByte b)) 1 :=
    loopBody_of_valid hfull (by rwa [hwindow])
  have hsamples : samples s.cfg.byteOrder (s.buf ++ [b]) = t := by
    rw [decodeFrame_ok _ _ (by rw [List.length_append, List.length_singleton, hlen])] at hdecode
    exact Except.ok.inj hdecode
  rw [exec_push_running hp hf, pushByte_of_window b hcap hlen hpass, published, hwindow, State.appendByte_cfg, hsamples,
    lockOnFrame_of_window b hlen, updateRange_eq]
  rfl

/-- Settles O41: the one pass is a resync step. -/
theorem pushOfAFailingWindowDiscardsOneByte : Obligations.PushOfAFailingWindowDiscardsOneByte := by
  intro s b first rest hp hf hcap hlen hinvalid hbuf
  have hfull : frameBytes ≤ (s.appendByte b).buf.length := by rw [appendByte_buf_length, hlen]
  have hpass : (s.appendByte b).loopBody = .ended (s.appendByte b).resync 0 :=
    loopBody_of_invalid hfull (by rwa [appendByte_window b hlen])
  rw [exec_push_running hp hf, pushByte_of_window b hcap hlen hpass]
  rw [resync_cons hbuf]
  rfl

/-- Settles O44: from every running state PUSH ends its loop, with the count of its publishes as the response. -/
theorem pushCompletesAndCountsItsFrames : Obligations.PushCompletesAndCountsItsFrames := by
  intro s b hp hf
  obtain ⟨t, n, hpub, hlen, hpush⟩ := pushByte_publishes s b
  refine ⟨t.respond (BitVec.ofNat 32 n), n, ?_, hlen, ?_, hpub.frameCount, hpub.frameCnt⟩
  · rw [exec_push_running hp hf, hpush]
  · rw [State.respond_resp, hpub.port, answer]

/-- Settles O45: the append puts the byte at the end, and a pass moves bytes from `BUF` to the trace in order. -/
theorem pushConservesTheStream : Obligations.PushConservesTheStream := by
  intro s t b hp hf h
  rw [exec_push_running hp hf] at h
  cases h
  exact pushByte_spanStream s b

/-- Settles O46: no pass writes the control fields, and only a publish the output. -/
theorem pushFrameOfControlAndOutput : Obligations.PushFrameOfControlAndOutput := by
  intro s t b hp hf h
  rw [exec_push_running hp hf] at h
  cases h
  exact ⟨pushByte_sameControl s b, (pushByte_outputKept s b).2, fun hpin =>
    (Writers.pushByte_range_of_pinned s b hpin).2⟩

end Sys2Proof.Push
end

section
/-! The step (20_memory.md R69, 60_exceptions.md R197, 70_reset_and_hazards.md R211, R216): which word it takes, when it
issues it, and when there is no step. -/

namespace Sys2Proof.Stepping

open Sys2Proof Sys2Proof.Machine Sys2Proof.Safety Sys2Proof.Laws Sys2Proof.CommandWord Sys2Proof.Exceptions
open Sys2Proof.Encoding

/-! ### The fetch -/

section
variable {s : State} {w v : Word} {ws vs : List Word}

theorem nextCommand_nothing (hc : s.cPort = []) (ho : s.oPort = []) : s.nextCommand = none := by
  simp only [State.nextCommand, hc, ho]

theorem nextCommand_onlyC (hc : s.cPort = w :: ws) (ho : s.oPort = []) : s.nextCommand = some (w, s.takeC ws) := by
  simp only [State.nextCommand, hc, ho]

theorem nextCommand_onlyO (hc : s.cPort = []) (ho : s.oPort = v :: vs) : s.nextCommand = some (v, s.takeO vs) := by
  simp only [State.nextCommand, hc, ho]

theorem nextCommand_both (hc : s.cPort = w :: ws) (ho : s.oPort = v :: vs) :
    s.nextCommand =
      if Config.arbiter s.draws = .c then some (w, (s.setDraws (s.draws + 1)).takeC ws)
      else some (v, (s.setDraws (s.draws + 1)).takeO vs) := by
  simp only [State.nextCommand, hc, ho]
  cases Config.arbiter s.draws <;> rfl

end

/-! ### Which words are issued where the inputs were changed (R216) -/

/-- RESET is its word on the C-port. -/
theorem isResetCommand_iff (w : Word) (s : State) : isResetCommand w s = true ↔ w = encode .reset ∧ s.port = .c := by
  simp only [isResetCommand, Bool.and_eq_true, beq_iff_eq]

theorem inputsStable_iff (s : State) : s.inputsStable = true ↔ s.newConfig = none := by
  rw [State.inputsStable, Option.isNone_iff_eq_none]

theorem issue_encode (i : Instr) (s : State) : issue (encode i) s = exec i s :=
  issue_of_decode_ok (decode_encode i) s

/-! ### The outcomes of a step -/

theorem step_resetIn {s : State} (h : s.resetIn = true) : step s = .next s.resetByInput := by
  rw [step, if_pos h]

section
variable {s u : State} {w : Word} (hr : s.resetIn = false)
include hr

theorem step_illFormed (hcfg : configOk s.cfg s.cap = false) : step s = .refused .illFormedConfig := by
  simp only [step, hr, hcfg, Bool.false_eq_true, if_false]

variable (hcfg : configOk s.cfg s.cap = true)
include hcfg

theorem step_nothing (hn : s.nextCommand = none) : step s = .next s := by
  simp only [step, hr, hcfg, hn, Bool.false_eq_true, if_false, if_true]

variable (hn : s.nextCommand = some (w, u))
include hn

/-- A word that was taken is issued if the inputs are as latched or it is RESET, and is stuck otherwise. -/
theorem step_taken :
    step s = if s.inputsStable || isResetCommand w u then issue w u else .fault .configInputsChanged := by
  simp only [step, hr, hcfg, hn, Bool.false_eq_true, if_false, if_true]

theorem step_issues (hs : s.newConfig = none) : step s = issue w u := by
  rw [step_taken hr hcfg hn, (inputsStable_iff s).2 hs, Bool.true_or, if_pos rfl]

theorem step_resets (hw : w = encode .reset) (hu : u.port = .c) : step s = exec .reset u := by
  rw [step_taken hr hcfg hn, (isResetCommand_iff w u).2 ⟨hw, hu⟩, Bool.or_true, if_pos rfl, hw, issue_encode]

theorem step_stuck (hs : s.newConfig ≠ none) (hw : ¬ (w = encode .reset ∧ u.port = .c)) :
    step s = .fault .configInputsChanged := by
  rw [step_taken hr hcfg hn, if_neg]
  rw [Bool.or_eq_true, inputsStable_iff, isResetCommand_iff]
  exact not_or.2 ⟨hs, hw⟩

end

/-! ### The obligations -/

/-- Settles O53: the only word that waits is taken, and issued unless the inputs were changed and it is not RESET. -/
theorem stepRunsTheDecodedCommand : Obligations.StepRunsTheDecodedCommand := by
  refine ⟨fun s w ws hr hcfg => ⟨fun hs hc ho => ?_, fun hs hc ho => ?_, fun hw hc ho => ?_⟩,
    fun w i s hd => issue_of_decode_ok hd s, fun w e s hd => issue_of_decode_error hd s⟩
  · exact step_issues hr hcfg (nextCommand_onlyC hc ho) hs
  · exact step_issues hr hcfg (nextCommand_onlyO hc ho) hs
  · exact step_resets hr hcfg (nextCommand_onlyC hc ho) hw rfl

/-- Settles O54: both verdicts of the arbiter, which is free. -/
theorem waitingPortsGoInTheOrderOfTheArbiter : Obligations.WaitingPortsGoInTheOrderOfTheArbiter := by
  intro s w v ws vs hr hcfg hs hc ho
  have hn := nextCommand_both hc ho
  by_cases harb : Config.arbiter s.draws = .c
  · rw [if_pos harb] at hn ⊢
    exact step_issues hr hcfg hn hs
  · rw [if_neg harb] at hn ⊢
    exact step_issues hr hcfg hn hs

/-- Settles O55: the reset input and RESET on the C-port put the block into the same reset state. -/
theorem resetInputOverridesEverything : Obligations.ResetInputOverridesEverything := by
  intro s hr
  refine ⟨s.resetByInput, _, step_resetIn hr, Reset.exec_reset_onC rfl, ?_⟩
  simp only [State.resetByInput, State.resetBlock, State.configInputs, State.respond, State.respondWith]

/-- Settles O56: with changed inputs a word is issued only if it is RESET's and comes from the C-port. -/
theorem stepWithoutACommandWaitsOrStops : Obligations.StepWithoutACommandWaitsOrStops := by
  refine ⟨fun s hr hcfg hc ho => step_nothing hr hcfg (nextCommand_nothing hc ho),
    fun s hr hcfg => step_illFormed hr hcfg, fun s hr hcfg hs =>
      ⟨fun w ws hc ho hw => ?_, fun v vs hc ho => ?_, fun w v ws vs hc ho => ?_⟩⟩
  · exact step_stuck hr hcfg (nextCommand_onlyC hc ho) hs fun h => hw h.1
  · exact step_stuck hr hcfg (nextCommand_onlyO hc ho) hs fun h => by cases h.2
  · have hn := nextCommand_both hc ho
    by_cases harb : Config.arbiter s.draws = .c
    · rw [if_pos harb] at hn
      by_cases hw : w = encode .reset
      · rw [if_pos ⟨harb, hw⟩]
        exact step_resets hr hcfg hn hw rfl
      · rw [if_neg fun h => hw h.2]
        exact step_stuck hr hcfg hn hs fun h => hw h.1
    · rw [if_neg harb] at hn
      rw [if_neg fun h => harb h.1]
      exact step_stuck hr hcfg hn hs fun h => by cases h.2

end Sys2Proof.Stepping
end

section
/-! Two runs side by side (40_synchronizer.md R115): a relation of two states that every command respects holds at the
end of two runs of which one leaves out commands that the relation does not see. -/

namespace Sys2Proof.Runs

open Sys2Proof Sys2Proof.Machine Sys2Proof.Safety Sys2Proof.Laws Sys2Proof.Effects Sys2Proof.CommandWord
open Sys2Proof.Exceptions Sys2Proof.Push

/-! ### Relations that every command respects -/

/-- A transitive relation of two states with the same `BUF`, `Cfg` and `FAULT`, which does not see the response or the
port and which every operation of the block respects. -/
structure Respected (R : State → State → Prop) : Prop where
  trans : ∀ {s t u}, R s t → R t u → R s u
  buf : ∀ {s t}, R s t → s.buf = t.buf
  cfg : ∀ {s t}, R s t → s.cfg = t.cfg
  fault : ∀ {s t}, R s t → s.fault = t.fault
  setPort : ∀ {s t}, R s t → ∀ p q, R { s with port := p } { t with port := q }
  illegal : ∀ {s t}, R s t → R (s.raise .illegalCommand) (t.raise .illegalCommand)
  halted : ∀ {s t}, R s t → R (s.raise .halted) (t.raise .halted)
  respond : ∀ {s t}, R s t → ∀ d e, R (s.respond d) (t.respond e)
  accept : ∀ {s t}, R s t → ∀ b, R (s.acceptByte b) (t.acceptByte b)
  publish : ∀ {s t}, R s t → R (published s) (published t)
  resync : ∀ {s t}, R s t → s.buf ≠ [] → R s.resync t.resync
  flush : ∀ {s t}, R s t → R s.flush t.flush
  resetRange : ∀ {s t}, R s t → R s.resetRange t.resetRange
  writeReg : ∀ {s t}, R s t → ∀ r v, R (s.writeReg r v) (t.writeReg r v)
  snap : ∀ {s t}, R s t → ∀ d e p q,
    R ({ s with new := false }.respondWith .ok d p) ({ t with new := false }.respondWith .ok e q)
  resetBlock : ∀ {s t}, R s t → R s.resetBlock t.resetBlock

/-- Both results are next states, and these are related. -/
def BothNext (R : State → State → Prop) (x y : Result) : Prop :=
  ∃ s t, x = .next s ∧ y = .next t ∧ R s t

section
variable {R : State → State → Prop} (hR : Respected R) {s t : State}
include hR

/-- The two loops examine the same windows with the same verdicts. -/
theorem drain_respects (fuel : Nat) (n : Nat) (h : R s t) :
    ∃ s' t' m, State.drain fuel s n = .done s' m ∧ State.drain fuel t n = .done t' m ∧ R s' t' := by
  induction fuel generalizing s t n with
  | zero => exact ⟨s, t, n, rfl, rfl, h⟩
  | succ f ih =>
    have hbuf := hR.buf h
    by_cases hl : frameBytes ≤ s.buf.length
    · have hl' : frameBytes ≤ t.buf.length := hbuf ▸ hl
      have hvalid : valid t.cfg t.window = valid s.cfg s.window := by
        rw [State.window, State.window, hbuf, hR.cfg h]
      cases hv : valid s.cfg s.window with
      | true =>
        rw [hv] at hvalid
        rw [drain_pass f s _ n 1 hl (loopBody_of_valid hl hv), drain_pass f t _ n 1 hl' (loopBody_of_valid hl' hvalid)]
        exact ih (n + 1) (hR.publish h)
      | false =>
        rw [hv] at hvalid
        have hne : s.buf ≠ [] := List.ne_nil_of_length_pos (by rw [frameBytes_eq] at hl; omega)
        rw [drain_pass f s _ n 0 hl (loopBody_of_invalid hl hv),
          drain_pass f t _ n 0 hl' (loopBody_of_invalid hl' hvalid)]
        exact ih (n + 0) (hR.resync h hne)
    · have hl' : t.buf.length < frameBytes := hbuf ▸ Nat.not_le.1 hl
      exact ⟨s, t, n, drain_stop _ s n (Nat.not_le.1 hl), drain_stop _ t n hl', h⟩

theorem pushByte_respects (b : Byte) (h : R s t) : R (s.pushByte b) (t.pushByte b) := by
  have haccept := hR.accept h b
  obtain ⟨s', t', m, hs, ht, hst⟩ := drain_respects hR (s.acceptByte b).buf.length 0 haccept
  rw [State.pushByte, State.pushByte, ← hR.buf haccept, hs, ht]
  exact hR.respond hst _ _

/-- Related states on one port pass or fail the checks of the dispatch together. -/
theorem guarded_respects {s' t' : State} (h : R s t) (hport : s.port = t.port) (hbody : R s' t') :
    BothNext R (requireCPort s (requireRunning s (.next s'))) (requireCPort t (requireRunning t (.next t'))) := by
  cases hp : s.port with
  | o =>
    rw [requireCPort_o s _ hp, requireCPort_o t _ (hport ▸ hp)]
    exact ⟨_, _, rfl, rfl, hR.illegal h⟩
  | c =>
    rw [requireCPort_c s _ hp, requireCPort_c t _ (hport ▸ hp)]
    by_cases hf : s.fault = 0
    · rw [requireRunning_running s _ hf, requireRunning_running t _ (hR.fault h ▸ hf)]
      exact ⟨_, _, rfl, rfl, hbody⟩
    · rw [requireRunning_halted s _ hf, requireRunning_halted t _ (hR.fault h ▸ hf)]
      exact ⟨_, _, rfl, rfl, hR.halted h⟩

/-- Every command completes from both states, in related states. -/
theorem exec_respects (i : Instr) (h : R s t) (hport : s.port = t.port) : BothNext R (exec i s) (exec i t) := by
  cases i with
  | idle => exact ⟨_, _, rfl, rfl, hR.respond h 0 0⟩
  | push b => exact guarded_respects hR h hport (pushByte_respects hR b h)
  | flush => exact guarded_respects hR h hport (hR.flush h)
  | rrst => exact guarded_respects hR h hport (hR.resetRange h)
  | wr a v =>
    cases ha : WritableReg.atAddr a with
    | none =>
      rw [exec_wr_of_refused ha, exec_wr_of_refused ha]
      exact ⟨_, _, rfl, rfl, hR.illegal h⟩
    | some r =>
      rw [exec_wr_of_writable ha, exec_wr_of_writable ha]
      exact guarded_respects hR h hport (hR.respond (hR.writeReg h r v) 0 0)
  | rd a =>
    cases ha : Reg.atAddr a with
    | none =>
      rw [exec_rd_of_refused ha, exec_rd_of_refused ha]
      exact ⟨_, _, rfl, rfl, hR.illegal h⟩
    | some r =>
      simp only [exec, execRd, ha]
      exact ⟨_, _, rfl, rfl, hR.respond h _ _⟩
  | snap => exact ⟨_, _, rfl, rfl, hR.snap h _ _ _ _⟩
  | reset =>
    cases hp : s.port with
    | o =>
      rw [exec_notAllowedOnO hp .reset rfl, exec_notAllowedOnO (hport ▸ hp) .reset rfl]
      exact ⟨_, _, rfl, rfl, hR.illegal h⟩
    | c =>
      rw [Reset.exec_reset_onC hp, Reset.exec_reset_onC (hport ▸ hp)]
      exact ⟨_, _, rfl, rfl, hR.respond (hR.resetBlock h) 0 0⟩

theorem issue_respects (w : Word) (h : R s t) (hport : s.port = t.port) : BothNext R (issue w s) (issue w t) := by
  cases hd : decode w with
  | error e =>
    rw [issue_of_decode_error hd, issue_of_decode_error hd]
    exact ⟨_, _, rfl, rfl, hR.illegal h⟩
  | ok i =>
    rw [issue_of_decode_ok hd, issue_of_decode_ok hd]
    exact exec_respects hR i h hport

/-- The induction over the commands: what the relation does not see can be left out of a run. -/
theorem runCommands_filter_respects {drop : Word → Bool}
    (hdrop : ∀ w s, drop w = true → ∃ t, issue w s = .next t ∧ R s t) (cs : List (Port × Word)) (h : R s t) :
    ∃ t' s', runCommands cs t = .next t' ∧ runCommands (cs.filter fun c => !drop c.2) s = .next s' ∧ R s' t' := by
  induction cs generalizing s t with
  | nil => exact ⟨t, s, rfl, rfl, h⟩
  | cons c cs ih =>
    obtain ⟨p, w⟩ := c
    cases hw : drop w with
    | true =>
      obtain ⟨t₁, ht, hR₁⟩ := hdrop w { t with port := p } hw
      have hst : R s t₁ := hR.trans (hR.setPort h s.port p) hR₁
      obtain ⟨t', s', hrun, hfiltered, hR'⟩ := ih hst
      exact ⟨t', s', by rw [runCommands, ht]; exact hrun, by simpa [List.filter_cons, hw] using hfiltered, hR'⟩
    | false =>
      obtain ⟨s₁, t₁, hs, ht, hR₁⟩ := issue_respects hR w (hR.setPort h p p) rfl
      obtain ⟨t', s', hrun, hfiltered, hR'⟩ := ih hR₁
      refine ⟨t', s', by rw [runCommands, ht]; exact hrun, ?_, hR'⟩
      rw [List.filter_cons_of_pos (by simp [hw]), runCommands, hs]
      exact hfiltered

end

/-! ### Observing -/

/-- What differs at most in what observing leaves behind is an update of it. -/
theorem sameButObserving_iff {s t : State} :
    SameButObserving s t ↔ ∃ n c r p, t = { s with new := n, cmdErr := c, resp := r, port := p } := by
  constructor
  · intro h
    exact ⟨t.new, t.cmdErr, t.resp, t.port, h.symm⟩
  · rintro ⟨n, c, r, p, rfl⟩
    rfl

theorem discardOldest_sameButObserving {s t : State} (h : SameButObserving s t) :
    SameButObserving s.discardOldest t.discardOldest := by
  obtain ⟨n, c, r, p, rfl⟩ := sameButObserving_iff.1 h
  by_cases hbuf : s.buf = []
  · rw [discardOldest_nil hbuf, discardOldest_nil (by exact hbuf)]
    exact h
  · obtain ⟨b, rest, hbuf⟩ := List.exists_cons_of_ne_nil hbuf
    rw [State.discardOldest_cons s b rest hbuf, State.discardOldest_cons _ b rest (by exact hbuf)]
    rfl

theorem acceptByte_sameButObserving {s t : State} (h : SameButObserving s t) (b : Byte) :
    SameButObserving (s.acceptByte b) (t.acceptByte b) := by
  have hdiscard := discardOldest_sameButObserving h
  obtain ⟨n, c, r, p, rfl⟩ := sameButObserving_iff.1 h
  by_cases hcap : s.buf.length = s.cap.toNat
  · rw [acceptByte_atCap s b hcap, acceptByte_atCap _ b (by exact hcap)]
    obtain ⟨n', c', r', p', ht⟩ := sameButObserving_iff.1 hdiscard
    rw [ht]
    rfl
  · rw [acceptByte_below s b hcap, acceptByte_below _ b (by exact hcap)]
    rfl

/-- No operation reads `NEW`, `CMD_ERR`, the last response or the port. -/
theorem sameButObserving_respected : Respected SameButObserving where
  trans {s t u} hst htu := by
    obtain ⟨n, c, r, p, rfl⟩ := sameButObserving_iff.1 hst
    exact htu
  buf h := by obtain ⟨n, c, r, p, rfl⟩ := sameButObserving_iff.1 h; rfl
  cfg h := by obtain ⟨n, c, r, p, rfl⟩ := sameButObserving_iff.1 h; rfl
  fault h := by obtain ⟨n, c, r, p, rfl⟩ := sameButObserving_iff.1 h; rfl
  setPort h _ _ := by obtain ⟨n, c, r, p, rfl⟩ := sameButObserving_iff.1 h; rfl
  illegal h := by obtain ⟨n, c, r, p, rfl⟩ := sameButObserving_iff.1 h; rfl
  halted h := by obtain ⟨n, c, r, p, rfl⟩ := sameButObserving_iff.1 h; rfl
  respond h _ _ := by obtain ⟨n, c, r, p, rfl⟩ := sameButObserving_iff.1 h; rfl
  accept h b := acceptByte_sameButObserving h b
  publish h := by
    obtain ⟨n, c, r, p, rfl⟩ := sameButObserving_iff.1 h
    rw [published, published, updateRange_eq, updateRange_eq]
    rfl
  resync {s t} h hne := by
    obtain ⟨n, c, r, p, rfl⟩ := sameButObserving_iff.1 h
    obtain ⟨b, rest, hbuf⟩ := List.exists_cons_of_ne_nil hne
    rw [resync_cons hbuf, resync_cons (by exact hbuf)]
    rfl
  flush h := by obtain ⟨n, c, r, p, rfl⟩ := sameButObserving_iff.1 h; rfl
  resetRange h := by obtain ⟨n, c, r, p, rfl⟩ := sameButObserving_iff.1 h; rfl
  writeReg h r v := by
    obtain ⟨n, c, r', p, rfl⟩ := sameButObserving_iff.1 h
    cases r <;> rfl
  snap h _ _ _ _ := by obtain ⟨n, c, r, p, rfl⟩ := sameButObserving_iff.1 h; rfl
  resetBlock h := by
    obtain ⟨n, c, r, p, rfl⟩ := sameButObserving_iff.1 h
    simp only [SameButObserving, State.resetBlock, State.configInputs]

/-- IDLE, RD and SNAP leave behind only what observing leaves behind; RD of a reserved address sets `CMD_ERR`. -/
theorem issue_of_observes (w : Word) (s : State) (h : observes w = true) :
    ∃ t, issue w s = .next t ∧ SameButObserving s t := by
  rw [observes] at h
  cases hd : decode w with
  | error e => rw [hd] at h; cases h
  | ok i =>
    rw [hd] at h
    rw [issue_of_decode_ok hd]
    cases i with
    | idle => exact ⟨_, rfl, rfl⟩
    | rd a =>
      cases ha : Reg.atAddr a with
      | none => exact ⟨_, exec_rd_of_refused ha, rfl⟩
      | some r => exact ⟨s.respond (s.readReg r), by simp only [exec, execRd, ha], rfl⟩
    | snap => exact ⟨_, rfl, rfl⟩
    | push | flush | rrst | wr | reset => cases h

/-! ### Range control -/

/-- Two states agree on the synchronizer, on what was extracted, and on all that steers the extraction to come. -/
structure SameExtraction (s t : State) : Prop where
  buf : s.buf = t.buf
  sync : s.sync = t.sync
  pos : s.pos = t.pos
  discardCnt : s.discardCnt = t.discardCnt
  resyncCnt : s.resyncCnt = t.resyncCnt
  frameCnt : s.frameCnt = t.frameCnt
  frames : extracted s.out = extracted t.out
  fault : s.fault = t.fault
  cfg : s.cfg = t.cfg
  cap : s.cap = t.cap
  newConfig : s.newConfig = t.newConfig

section
variable {s t u : State}

theorem SameExtraction.trans (hst : SameExtraction s t) (htu : SameExtraction t u) : SameExtraction s u where
  buf := hst.buf.trans htu.buf
  sync := hst.sync.trans htu.sync
  pos := hst.pos.trans htu.pos
  discardCnt := hst.discardCnt.trans htu.discardCnt
  resyncCnt := hst.resyncCnt.trans htu.resyncCnt
  frameCnt := hst.frameCnt.trans htu.frameCnt
  frames := hst.frames.trans htu.frames
  fault := hst.fault.trans htu.fault
  cfg := hst.cfg.trans htu.cfg
  cap := hst.cap.trans htu.cap
  newConfig := hst.newConfig.trans htu.newConfig

/-- What writes none of the core on either side keeps the agreement. -/
theorem SameExtraction.of_sameCore {s' t' : State} (h : SameExtraction s t) (hs : SameCore s s') (ht : SameCore t t') :
    SameExtraction s' t' where
  buf := by rw [hs.buf, ht.buf, h.buf]
  sync := by rw [hs.sync, ht.sync, h.sync]
  pos := by rw [hs.pos, ht.pos, h.pos]
  discardCnt := by rw [hs.discardCnt, ht.discardCnt, h.discardCnt]
  resyncCnt := by rw [hs.resyncCnt, ht.resyncCnt, h.resyncCnt]
  frameCnt := by rw [hs.frameCnt, ht.frameCnt, h.frameCnt]
  frames := by rw [hs.out, ht.out, h.frames]
  fault := by rw [hs.fault, ht.fault, h.fault]
  cfg := by rw [hs.cfg, ht.cfg, h.cfg]
  cap := by rw [hs.cap, ht.cap, h.cap]
  newConfig := by rw [hs.newConfig, ht.newConfig, h.newConfig]

theorem SameExtraction.refl (s : State) : SameExtraction s s := by constructor <;> rfl

theorem discardOldest_sameExtraction (h : SameExtraction s t) :
    SameExtraction s.discardOldest t.discardOldest := by
  cases hbuf : s.buf with
  | nil =>
    rw [discardOldest_nil hbuf, discardOldest_nil (h.buf ▸ hbuf)]
    exact h
  | cons b rest =>
    rw [State.discardOldest_cons s b rest hbuf, State.discardOldest_cons t b rest (by rw [← h.buf, hbuf])]
    exact { h with
      buf := rfl
      pos := congrArg (· + 1) h.pos
      discardCnt := congrArg (· + 1) h.discardCnt
      frames := by rw [extracted_discard, extracted_discard, h.frames] }

theorem acceptByte_sameExtraction (h : SameExtraction s t) (b : Byte) :
    SameExtraction (s.acceptByte b) (t.acceptByte b) := by
  by_cases hcap : s.buf.length = s.cap.toNat
  · have hdiscard := discardOldest_sameExtraction h
    rw [acceptByte_atCap s b hcap, acceptByte_atCap t b (by rw [← h.buf, ← h.cap, hcap])]
    exact { hdiscard with buf := congrArg (· ++ [b]) hdiscard.buf }
  · rw [acceptByte_below s b hcap, acceptByte_below t b (by rw [← h.buf, ← h.cap]; exact hcap)]
    exact { h with buf := congrArg (· ++ [b]) h.buf }

theorem published_sameExtraction (h : SameExtraction s t) : SameExtraction (published s) (published t) where
  buf := by rw [published_buf, published_buf, h.buf]
  sync := by rw [published_sync, published_sync]
  pos := by rw [Synchronizer.published_pos, Synchronizer.published_pos, h.pos]
  discardCnt := by rw [published_discardCnt, published_discardCnt, h.discardCnt]
  resyncCnt := by rw [published_resyncCnt, published_resyncCnt, h.resyncCnt]
  frameCnt := by rw [published_frameCnt, published_frameCnt, h.frameCnt]
  frames := by
    rw [published_out, published_out, extracted_frame, extracted_frame, State.window, State.window, h.buf, h.cfg,
      h.frames]
  fault := by rw [published_fault, published_fault, h.fault]
  cfg := by rw [published_cfg, published_cfg, h.cfg]
  cap := by rw [published_cap, published_cap, h.cap]
  newConfig := by rw [published_newConfig, published_newConfig, h.newConfig]

theorem resync_sameExtraction (h : SameExtraction s t) (hne : s.buf ≠ []) : SameExtraction s.resync t.resync := by
  obtain ⟨b, rest, hbuf⟩ := List.exists_cons_of_ne_nil hne
  rw [resync_cons hbuf, resync_cons (h.buf ▸ hbuf)]
  exact { h with
    buf := rfl
    sync := rfl
    pos := congrArg (· + 1) h.pos
    discardCnt := congrArg (· + 1) h.discardCnt
    resyncCnt := by simp only [h.sync, h.resyncCnt]
    frames := by rw [extracted_discard, extracted_discard, h.frames] }

theorem flush_sameExtraction (h : SameExtraction s t) : SameExtraction s.flush t.flush :=
  { h with
    buf := rfl
    sync := rfl
    pos := rfl
    frames := by rw [State.flush_out, State.flush_out, extracted_flushed, extracted_flushed, h.frames] }

theorem resetBlock_sameExtraction (h : SameExtraction s t) : SameExtraction s.resetBlock t.resetBlock := by
  have hinputs : s.configInputs = t.configInputs := by
    rw [State.configInputs, State.configInputs, h.newConfig, h.cfg, h.cap]
  constructor <;> simp [hinputs]

end

/-- Nothing that steers the extraction depends on the PaletteRange or on `CTRL`. -/
theorem sameExtraction_respected : Respected SameExtraction where
  trans := SameExtraction.trans
  buf h := h.buf
  cfg h := h.cfg
  fault h := h.fault
  setPort h _ _ := { h with }
  illegal h := h.of_sameCore (sameCore_raise_illegalCommand _) (sameCore_raise_illegalCommand _)
  halted h := h.of_sameCore (sameCore_raise_halted _) (sameCore_raise_halted _)
  respond h _ _ := h.of_sameCore (sameCore_respond _ _) (sameCore_respond _ _)
  accept := acceptByte_sameExtraction
  publish := published_sameExtraction
  resync := resync_sameExtraction
  flush := flush_sameExtraction
  resetRange h := h.of_sameCore (sameCore_resetRange _) (sameCore_resetRange _)
  writeReg h r v := h.of_sameCore (sameCore_writeReg _ r v) (sameCore_writeReg _ r v)
  snap h _ _ _ _ := h.of_sameCore (sameCore_snap _ _ _) (sameCore_snap _ _ _)
  resetBlock := resetBlock_sameExtraction

/-- Every word on every port completes (O7 says how). -/
theorem issue_completes (w : Word) (s : State) : ∃ t, issue w s = .next t := by
  obtain ⟨hillegal, hlegal⟩ := illegalWordsRaiseIllegalCommandOnly.1 w s
  by_cases h : IllegalWord s.port w
  · exact ⟨_, hillegal h⟩
  · obtain ⟨t, -, ht, -⟩ := hlegal h
    exact ⟨t, ht⟩

/-- WR and RRST, refused or not, write nothing of the core. -/
theorem issue_of_controlsRange (w : Word) (s : State) (h : controlsRange w = true) :
    ∃ t, issue w s = .next t ∧ SameExtraction s t := by
  have hsame : ∀ t, SameCore s t → SameExtraction s t := fun _ => (SameExtraction.refl s).of_sameCore (SameCore.refl s)
  obtain ⟨t, ht⟩ := issue_completes w s
  refine ⟨t, ht, ?_⟩
  rcases issue_cases w s t ht with rfl | ⟨i, hd, he⟩
  · exact hsame _ (sameCore_raise_illegalCommand s)
  · rw [controlsRange, hd] at h
    rcases exec_effect he with hst | ⟨-, -, b, rfl, -⟩ | ⟨rfl, -⟩ | ⟨rfl, -, -⟩
    · exact hsame t hst
    · cases h
    · cases h
    · cases h

/-! ### The obligations -/

/-- Settles O57: no operation reads what observing leaves behind. -/
theorem observingNeverDisturbsTheStream : Obligations.ObservingNeverDisturbsTheStream :=
  fun cs s => runCommands_filter_respects sameButObserving_respected issue_of_observes cs (s := s) rfl

/-- Settles O58: no operation of the extraction reads what range control writes. -/
theorem rangeControlNeverChangesExtraction : Obligations.RangeControlNeverChangesExtraction := by
  intro cs s
  obtain ⟨t, u, ht, hu, h⟩ :=
    runCommands_filter_respects sameExtraction_respected issue_of_controlsRange cs (SameExtraction.refl s)
  exact ⟨t, u, ht, hu, h.buf, h.sync, h.pos, h.discardCnt, h.resyncCnt, h.frameCnt, h.frames⟩

end Sys2Proof.Runs
end

section
/-! Recovery after a corrupted frame (40_synchronizer.md R117): the block discards byte by byte until the first window
that is valid, and locks on it. -/

namespace Sys2Proof.Recovery

open Sys2Proof Sys2Proof.Machine Sys2Proof.Safety Sys2Proof.Laws Sys2Proof.Push

/-! ### Runs of PUSH -/

theorem runInstrs_append {is js : List Instr} {s t : State} (h : runInstrs is s = .next t) :
    runInstrs (is ++ js) s = runInstrs js t := by
  induction is generalizing s with
  | nil => cases h; rfl
  | cons i is ih =>
    rw [runInstrs] at h
    rw [List.cons_append, runInstrs]
    cases he : exec i s with
    | next u => rw [he] at h; exact ih h
    | fault f => rw [he] at h; cases h
    | refused r => rw [he] at h; cases h

theorem pushAll_cons (b : Byte) (bs : List Byte) : pushAll (b :: bs) = .push b :: pushAll bs := rfl

theorem pushAll_append (as bs : List Byte) : pushAll (as ++ bs) = pushAll as ++ pushAll bs := List.map_append

/-- Pushing one byte more is one command more. -/
theorem runInstrs_pushAll_take_succ {xs : List Byte} {n : Nat} (hn : n < xs.length) {s t u : State}
    (h : runInstrs (pushAll (xs.take n)) s = .next t) (hpush : exec (.push xs[n]) t = .next u) :
    runInstrs (pushAll (xs.take (n + 1))) s = .next u := by
  rw [← List.take_concat_get' xs n hn, pushAll_append, runInstrs_append h, pushAll_cons, runInstrs, hpush]
  rfl

/-! ### The windows of a stream -/

section
variable {xs : List Byte} {j : Nat} (hj : j + frameBytes ≤ xs.length)
include hj

theorem lastByte_lt : j + (frameBytes - 1) < xs.length := by
  rw [frameBytes_eq] at *
  omega

/-- What waits in `BUF` when the window at `j` is complete but for its last byte. -/
theorem windowAt_eq_append : windowAt xs j = (xs.drop j).take (frameBytes - 1) ++
    [xs[j + (frameBytes - 1)]'(lastByte_lt hj)] := by
  have hlast : frameBytes - 1 < (xs.drop j).length := by
    rw [List.length_drop, frameBytes_eq] at *
    omega
  rw [windowAt, ← List.getElem_drop (h := hlast), List.take_concat_get' _ _ hlast]
  rfl

/-- The window at `j` without its first byte is what waits for the window at `j + 1`. -/
theorem windowAt_eq_cons : windowAt xs j = (xs[j]'((Nat.le_add_right _ _).trans_lt (lastByte_lt hj))) ::
    (xs.drop (j + 1)).take (frameBytes - 1) := by
  rw [windowAt, List.drop_eq_getElem_cons]
  rfl

theorem windowAt_length : (windowAt xs j).length = frameBytes := by
  rw [windowAt, List.length_take, List.length_drop]
  omega

end

/-! ### The search for the next valid window -/

/-- From the locked state `s` the bytes before stream offset `j` have been discarded, in one resync cycle, and the
window at `j` lacks its last byte. -/
structure Searching (s : State) (xs : List Byte) (j : Nat) (u : State) : Prop where
  port : u.port = .c
  fault : u.fault = 0
  cfg : u.cfg = s.cfg
  cap : u.cap = s.cap
  sync : u.sync = if j = 0 then .locked else .seeking
  buf : u.buf = (xs.drop j).take (frameBytes - 1)
  pos : u.pos = s.pos + j
  resyncCnt : u.resyncCnt = if j = 0 then s.resyncCnt else s.resyncCnt + 1
  discardCnt : u.discardCnt = s.discardCnt + BitVec.ofNat 32 j
  frameCnt : u.frameCnt = s.frameCnt
  frames : extracted u.out = extracted s.out

/-- Bytes that do not complete a frame wait in `BUF`, and nothing but the response changes. -/
theorem runInstrs_pushAll_short (bs : List Byte) (s : State) (hp : s.port = .c) (hf : s.fault = 0)
    (hcap : capOk s.cap = true) (hlen : s.buf.length + bs.length < frameBytes) :
    ∃ r, runInstrs (pushAll bs) s = .next { s with buf := s.buf ++ bs, resp := r } := by
  induction bs generalizing s with
  | nil => exact ⟨s.resp, by rw [List.append_nil]; rfl⟩
  | cons b bs ih =>
    rw [List.length_cons] at hlen
    have hpush := pushBelowAFrameAppends s b hp hf hcap (by omega)
    obtain ⟨r, hr⟩ := ih { s with buf := s.buf ++ [b], resp := answer s .ok 0 } hp hf hcap
      (by rw [List.length_append, List.length_singleton]; omega)
    refine ⟨r, ?_⟩
    rw [pushAll_cons, runInstrs, hpush]
    simpa only [List.append_assoc, List.singleton_append] using hr

section
variable {s : State} {xs : List Byte}

/-- The search begins when the first window lacks its last byte. -/
theorem searching_zero (hp : s.port = .c) (hf : s.fault = 0) (hcap : capOk s.cap = true) (hbuf : s.buf = [])
    (hsync : s.sync = .locked) :
    ∃ u, runInstrs (pushAll (xs.take (frameBytes - 1))) s = .next u ∧ Searching s xs 0 u := by
  have hshort : s.buf.length + (xs.take (frameBytes - 1)).length < frameBytes := by
    rw [hbuf, List.length_nil, List.length_take, frameBytes_eq]
    omega
  obtain ⟨r, hr⟩ := runInstrs_pushAll_short (xs.take (frameBytes - 1)) s hp hf hcap hshort
  refine ⟨_, hr, ?_⟩
  exact { port := hp, fault := hf, cfg := rfl, cap := rfl, sync := hsync, buf := by rw [hbuf]; rfl, pos := rfl,
          resyncCnt := rfl, discardCnt := (BitVec.add_zero _).symm, frameCnt := rfl, frames := rfl }

variable {j : Nat} {u : State} (hu : Searching s xs j u) (hcap : capOk s.cap = true)
  (hj : j + frameBytes ≤ xs.length)
include hu hj

theorem Searching.buf_length : u.buf.length + 1 = frameBytes := by
  rw [hu.buf, List.length_take, List.length_drop, frameBytes_eq] at *
  omega

/-- The next byte completes the window at `j`. -/
theorem Searching.append_eq_windowAt : u.buf ++ [xs[j + (frameBytes - 1)]'(lastByte_lt hj)] =
    windowAt xs j := by
  rw [hu.buf, windowAt_eq_append hj]

include hcap

/-- On a window that fails the search goes on one byte later. -/
theorem Searching.push_of_invalid (hv : valid s.cfg (windowAt xs j) = false) :
    ∃ v, exec (.push (xs[j + (frameBytes - 1)]'(lastByte_lt hj))) u = .next v ∧
      Searching s xs (j + 1) v := by
  have hwindow := hu.append_eq_windowAt hj
  have hpush := pushOfAFailingWindowDiscardsOneByte u _ _ _ hu.port hu.fault (by rwa [hu.cap]) (hu.buf_length hj)
    (by rwa [hwindow, hu.cfg]) (hwindow.trans (windowAt_eq_cons hj))
  refine ⟨_, hpush, ?_⟩
  exact
    { port := hu.port
      fault := hu.fault
      cfg := hu.cfg
      cap := hu.cap
      sync := rfl
      buf := rfl
      pos := by rw [hu.pos]; rfl
      resyncCnt := by
        rw [hu.sync, hu.resyncCnt]
        by_cases h0 : j = 0 <;> simp [h0]
      discardCnt := by rw [hu.discardCnt, BitVec.ofNat_add, BitVec.add_assoc]; rfl
      frameCnt := hu.frameCnt
      frames := by rw [extracted_discard, hu.frames] }

/-- A valid window ends the search: it is extracted, and the block is locked with `BUF` empty. -/
theorem Searching.push_of_valid (hv : valid s.cfg (windowAt xs j) = true) :
    ∃ v, exec (.push (xs[j + (frameBytes - 1)]'(lastByte_lt hj))) u = .next v ∧
      v.sync = .locked ∧ v.buf = [] ∧ v.pos = s.pos + j + frameBytes ∧
      v.resyncCnt = (if j = 0 then s.resyncCnt else s.resyncCnt + 1) ∧
      v.discardCnt = s.discardCnt + BitVec.ofNat 32 j ∧ v.frameCnt = s.frameCnt + 1 ∧
      extracted v.out = extracted s.out ++ [(windowAt xs j, samples s.cfg.byteOrder (windowAt xs j))] := by
  have hwindow := hu.append_eq_windowAt hj
  have hpush := pushOfAValidWindowPublishes u _ _ _ _ hu.port hu.fault (by rwa [hu.cap]) (hu.buf_length hj)
    (by rwa [hwindow, hu.cfg]) (by rw [hwindow]; exact decodeFrame_ok _ _ (windowAt_length hj)) rfl rfl
  refine ⟨_, hpush, rfl, rfl, by rw [hu.pos], hu.resyncCnt, hu.discardCnt, by rw [hu.frameCnt], ?_⟩
  rw [extracted_frame, hu.frames, hwindow, hu.cfg]

end

section
variable {s : State} {xs : List Byte} (hp : s.port = .c) (hf : s.fault = 0) (hcap : capOk s.cap = true)
  (hbuf : s.buf = []) (hsync : s.sync = .locked)
include hp hf hcap hbuf hsync

/-- As long as no window is valid the block searches. -/
theorem searching_of_invalid (j : Nat) (hj : j + frameBytes ≤ xs.length)
    (hfail : ∀ i < j, valid s.cfg (windowAt xs i) = false) :
    ∃ u, runInstrs (pushAll (xs.take (j + (frameBytes - 1)))) s = .next u ∧ Searching s xs j u := by
  induction j with
  | zero =>
    rw [Nat.zero_add]
    exact searching_zero hp hf hcap hbuf hsync
  | succ j ih =>
    have hj' : j + frameBytes ≤ xs.length := by omega
    obtain ⟨u, hrun, hu⟩ := ih hj' fun i hi => hfail i (Nat.lt_succ_of_lt hi)
    obtain ⟨v, hpush, hv⟩ := hu.push_of_invalid hcap hj' (hfail j (Nat.lt_succ_self j))
    refine ⟨v, ?_, hv⟩
    rw [Nat.add_right_comm]
    exact runInstrs_pushAll_take_succ _ hrun hpush

end

/-! ### The obligation -/

/-- Settles O59: the search that the failed window at 0 begins ends at the first valid window, at `FRAME_BYTES` at the
latest. -/
theorem oneResyncCycleRecoversWithinAFrame : Obligations.OneResyncCycleRecoversWithinAFrame := by
  intro s xs hp hf hcap hbuf hsync hxs hzero hintact
  have hexists : ∃ m, valid s.cfg (windowAt xs m) = true := ⟨frameBytes, hintact⟩
  obtain ⟨m, hm, hfirst⟩ : ∃ m, valid s.cfg (windowAt xs m) = true ∧
      ∀ i < m, valid s.cfg (windowAt xs i) = false :=
    ⟨Nat.find hexists, Nat.find_spec hexists, fun i hi => Bool.eq_false_of_not_eq_true (Nat.find_min hexists hi)⟩
  have hle : m ≤ frameBytes := by
    by_contra hgt
    rw [hfirst frameBytes (Nat.not_le.1 hgt)] at hintact
    cases hintact
  have hne : m ≠ 0 := by
    rintro rfl
    rw [hzero] at hm
    cases hm
  have hend : m + frameBytes ≤ xs.length := by omega
  obtain ⟨u, hrun, hu⟩ := searching_of_invalid hp hf hcap hbuf hsync m hend hfirst
  obtain ⟨t, hpush, hlocked, hempty, hpos, hresync, hdiscard, hframe, hextracted⟩ := hu.push_of_valid hcap hend hm
  have hall := runInstrs_pushAll_take_succ _ hrun hpush
  rw [show m + (frameBytes - 1) + 1 = frameBytes + m by rw [frameBytes_eq]; omega] at hall
  rw [if_neg hne] at hresync
  exact ⟨m, t, Nat.pos_of_ne_zero hne, hle, hm, fun j _ hj => hfirst j hj, hall, hlocked, hempty, hpos, hresync,
    hdiscard, hframe, hextracted⟩

end Sys2Proof.Recovery
end
